-- ==== Sys2Proof/Word.lean ====
section
/-! DEFINITION. The two machine words of the CORE: the byte, the unit of every key, IV, tag and message
(00_scope.md, section 5), and the 32-bit word of the host's bus, of the registers (20_memory.md R62) and of
the SHA-256 arithmetic (49_prim_sha256_hmac.md R221). A byte string is a list of bytes, first byte first. -/

namespace Sys2Proof

/-- A byte: a number 0 to 255 (00_scope.md, section 5, Bytes and byte strings). -/
abbrev Byte := BitVec 8

/-- A 32-bit word (00_scope.md, section 5, Bits). -/
abbrev Word := BitVec 32

end Sys2Proof
end

