-- ==== Sys2Proof/Syntax.lean ====
section
/-! DEFINITION. The command set of the CORE: one constructor for each row of 30_encoding.md R92. A command has
no operand fields (R91): every operand is a register or MEM. -/

namespace Sys2Proof

/-- The fourteen commands (30_encoding.md R92). The three scopes of SEAL and of OPEN are rows of their own. -/
inductive Instr where
  | validate   -- VALIDATE   0x00000001, 41_validate.md R127
  | pad        -- PAD        0x00000002, 42_padding.md R137
  | unpad      -- UNPAD      0x00000003, 42_padding.md R138
  | encrypt    -- ENCRYPT    0x00000004, 43_cbc.md R147
  | decrypt    -- DECRYPT    0x00000005, 43_cbc.md R148
  | mac        -- MAC        0x00000006, 44_mac.md R157
  | verify     -- VERIFY     0x00000007, 44_mac.md R158
  | sealCt     -- SEAL.CT    0x00000008, 45_envelope.md R167
  | sealIvct   -- SEAL.IVCT  0x00000018, 45_envelope.md R168
  | sealPt     -- SEAL.PT    0x00000028, 45_envelope.md R169
  | openCt     -- OPEN.CT    0x00000009, 45_envelope.md R172
  | openIvct   -- OPEN.IVCT  0x00000019, 45_envelope.md R173
  | openPt     -- OPEN.PT    0x00000029, 45_envelope.md R174
  | wipe       -- WIPE       0x0000000A, 46_system.md R185
deriving DecidableEq, Repr

end Sys2Proof
end

