-- ==== Sys2Proof/WellFormed.lean ====
section
/-! DEFINITION. What a well-formed term is: the fields of a command word (30_encoding.md R90, R92, R93) and the
shape of a host access (20_memory.md R65). A command has no operands (R91), so every Instr is well-formed. -/

namespace Sys2Proof

/-- The three fields of format C (30_encoding.md R90). -/
structure CommandFields where
  op    : BitVec 4
  scope : BitVec 2
  zero  : BitVec 26
deriving DecidableEq, Repr

/-- The operations that take a MAC scope: SEAL is 8, OPEN is 9 (30_encoding.md R92). -/
def CommandFields.takesScope (f : CommandFields) : Bool :=
  f.op == 8#4 || f.op == 9#4

/-- Bits 31:6 are reserved and must be 0 (30_encoding.md R90). -/
def CommandFields.zeroOk (f : CommandFields) : Bool :=
  f.zero == 0#26

/-- Operations 1 to 10 exist; 0 and 11 to 15 do not (30_encoding.md R92, R95). -/
def CommandFields.opOk (f : CommandFields) : Bool :=
  1 ≤ f.op.toNat && f.op.toNat ≤ 10

/-- A scope is 0, 1 or 2 where the operation takes one, and 0 where it takes none (30_encoding.md R90, R93). -/
def CommandFields.scopeOk (f : CommandFields) : Bool :=
  if f.takesScope then f.scope != 3#2 else f.scope == 0#2

/-- The fields name one of the fourteen commands (30_encoding.md R92). -/
def CommandFields.wellFormed (f : CommandFields) : Bool :=
  f.zeroOk && f.opOk && f.scopeOk

/-- A command has no operand fields that could be ill-formed (30_encoding.md R91). -/
def Instr.wellFormed : Instr → Bool
  | .validate => true
  | .pad      => true
  | .unpad    => true
  | .encrypt  => true
  | .decrypt  => true
  | .mac      => true
  | .verify   => true
  | .sealCt   => true
  | .sealIvct => true
  | .sealPt   => true
  | .openCt   => true
  | .openIvct => true
  | .openPt   => true
  | .wipe     => true

end Sys2Proof
end

