-- ==== Sys2Proof/Decode.lean ====
section
/-! DEFINITION. Decoding a command word (30_encoding.md R94), total on the 2^32 words and refusing by name, and
the encoder written from the same table (R92). -/

namespace Sys2Proof

/-- Why a word is no command. The machine answers all four alike, with IllegalCommand (30_encoding.md R95). -/
inductive DecodeError where
  | reservedBits    -- a bit of 31:6 is set
  | scopeReserved   -- SEAL or OPEN with SCOPE = 3
  | scopeNotTaken   -- SCOPE is not 0 on an operation that takes none
  | opUndefined     -- OP is 0 or 11 to 15
deriving DecidableEq, Repr

/-- The field OP, bits 3:0 (30_encoding.md R90). -/
def opField (w : Word) : BitVec 4 := w.extractLsb' 0 4

/-- The field SCOPE, bits 5:4 (30_encoding.md R90). -/
def scopeField (w : Word) : BitVec 2 := w.extractLsb' 4 2

/-- The field ZERO, bits 31:6 (30_encoding.md R90). -/
def zeroField (w : Word) : BitVec 26 := w.extractLsb' 6 26

/-- The three fields of a word together. -/
def fieldsOf (w : Word) : CommandFields :=
  { op := opField w, scope := scopeField w, zero := zeroField w }

/-- SEAL by its scope (30_encoding.md R93). -/
def decodeSeal (sc : Nat) : Except DecodeError Instr :=
  match sc with
  | 0 => .ok .sealCt
  | 1 => .ok .sealIvct
  | 2 => .ok .sealPt
  | _ => .error .scopeReserved

/-- OPEN by its scope (30_encoding.md R93). -/
def decodeOpen (sc : Nat) : Except DecodeError Instr :=
  match sc with
  | 0 => .ok .openCt
  | 1 => .ok .openIvct
  | 2 => .ok .openPt
  | _ => .error .scopeReserved

/-- The operations that take no scope, by number (30_encoding.md R92). -/
def decodePlain (op : Nat) : Except DecodeError Instr :=
  match op with
  | 1  => .ok .validate
  | 2  => .ok .pad
  | 3  => .ok .unpad
  | 4  => .ok .encrypt
  | 5  => .ok .decrypt
  | 6  => .ok .mac
  | 7  => .ok .verify
  | 10 => .ok .wipe
  | _  => .error .opUndefined

/-- `Decode(w)` (30_encoding.md R94), its tests in the rule's order. -/
def decode (w : Word) : Except DecodeError Instr :=
  let op := (opField w).toNat
  let sc := (scopeField w).toNat
  if zeroField w ≠ 0#26 then .error .reservedBits
  else if op = 8 then decodeSeal sc
  else if op = 9 then decodeOpen sc
  else if sc ≠ 0 then .error .scopeNotTaken
  else decodePlain op

/-- The operation number of a command (30_encoding.md R92, column OP). -/
def Instr.opNumber : Instr → BitVec 4
  | .validate => 1#4
  | .pad      => 2#4
  | .unpad    => 3#4
  | .encrypt  => 4#4
  | .decrypt  => 5#4
  | .mac      => 6#4
  | .verify   => 7#4
  | .sealCt   => 8#4
  | .sealIvct => 8#4
  | .sealPt   => 8#4
  | .openCt   => 9#4
  | .openIvct => 9#4
  | .openPt   => 9#4
  | .wipe     => 10#4

/-- The scope number of a command (30_encoding.md R92, column SCOPE; R93). -/
def Instr.scopeNumber : Instr → BitVec 2
  | .validate => 0#2
  | .pad      => 0#2
  | .unpad    => 0#2
  | .encrypt  => 0#2
  | .decrypt  => 0#2
  | .mac      => 0#2
  | .verify   => 0#2
  | .sealCt   => 0#2
  | .sealIvct => 1#2
  | .sealPt   => 2#2
  | .openCt   => 0#2
  | .openIvct => 1#2
  | .openPt   => 2#2
  | .wipe     => 0#2

/-- The command word of three fields (30_encoding.md R90): ZERO in 31:6, SCOPE in 5:4, OP in 3:0. -/
def CommandFields.toWord (f : CommandFields) : Word :=
  f.zero ++ f.scope ++ f.op

/-- The word of a command (30_encoding.md R92). -/
def encode (i : Instr) : Word :=
  CommandFields.toWord { op := i.opNumber, scope := i.scopeNumber, zero := 0#26 }

/-- What the decoder reads from an instruction of `nbits` bits whose bits are `w`, bit 0 the least significant.
A command is one 32-bit bus word and has no further words (30_encoding.md R90, R96): bits above `nbits` are 0,
and an instruction longer than 32 bits does not exist. -/
def decodeTableWord (nbits w : Nat) : Option Instr :=
  if nbits ≤ 32 then
    match decode (BitVec.ofNat 32 (w % 2 ^ nbits)) with
    | .ok i    => some i
    | .error _ => none
  else none

end Sys2Proof
end

