-- ==== Sys2Proof/Config.lean ====
section
/-! DEFINITION. The parameter of 00_scope.md R8 that an implementation fixes and that has a number: the size
of MEM. A machine's own value stands in its constant register MEM_SIZE (State.memSize), so that statements
range over every legal value (log 5). The other open parameters are not numbers: LATENCY is the place of the
sequencer's turn in State.agenda (log 1), MEM_RESET is what the reset step carries (log 4), CIPHER and HASH
are the decided instances of 48_prim_aes.md and 49_prim_sha256_hmac.md (logs 6 and 7). -/

namespace Sys2Proof

/-- The default of MEM_BYTES (00_scope.md R8). -/
def Config.memBytesDefault : Nat := 4096

/-- The legal values of MEM_BYTES: any multiple of 4 from 64 to 2^20 (00_scope.md R8). -/
def Config.legalMemBytes (n : Nat) : Bool :=
  n % 4 == 0 && 64 ≤ n && n ≤ 1048576

end Sys2Proof
end

