-- ==== Sys2Proof/Machine/State.lean ====
section
/-! DEFINITION. The state of the CORE (10_state.md R20) as plain data, the state after reset (R45), the two ways
a step can stop, and the data of the host's side: what the host is going to do (`agenda`) and what the bus last
answered (`resp`), the two fields that are the model's own (logs 1 and 9). -/

namespace Sys2Proof.Machine

/-- The MAC scopes (30_encoding.md R93). -/
inductive MacScope where
  | ciphertextOnly
  | ivThenCiphertext
  | plaintextOnly
deriving DecidableEq, Repr

/-- The phase marks of TRACE (10_state.md R43, 40_lifecycle.md R121). -/
inductive Phase where
  | v      -- a validator
  | pad    -- Pad
  | unpad  -- Unpad
  | enc    -- CbcEnc
  | dec    -- CbcDec
  | mac    -- Mac
  | cmp    -- the constant-time comparison
deriving DecidableEq, Repr

/-- The error kinds (60_exceptions.md R240). Codes 8 to 15 are never produced and have no constructor. -/
inductive ErrorKind where
  | invalidKeyLength        -- 1
  | invalidIVLength         -- 2
  | invalidInputLength      -- 3
  | paddingError            -- 4
  | authenticationFailure   -- 5
  | illegalCommand          -- 6
  | addressError            -- 7
deriving DecidableEq, Repr

/-- STATUS (10_state.md R32): its five fields. The reserved bits have no storage, since they read 0 and ignore
writes (R35). The word the host reads is `Status.toWord`. -/
structure Status where
  busy    : Bool
  done    : Bool
  matched : Bool
  lockErr : Bool
  /-- ERR, `none` for code 0. -/
  err     : Option ErrorKind
deriving DecidableEq, Repr

/-- CTRL (10_state.md R33): its one field; the reserved bits have no storage (R35). -/
structure Ctrl where
  ie : Bool
deriving DecidableEq, Repr

/-- WORK (10_state.md R42): the intermediate values of the command in execution, one buffer for each value the
rule lists. Which buffers there are is the model's choice (log 8); no host access and no later command reads one. -/
structure Work where
  /-- the expanded key schedule -/
  keySchedule : List Byte
  /-- the padded plaintext -/
  padded      : List Byte
  /-- the ciphertext before commit -/
  ciphertext  : List Byte
  /-- the decrypted padded buffer -/
  decrypted   : List Byte
  /-- the plaintext recovered before verification or commit -/
  recovered   : List Byte
  /-- the recomputed digest, which is the last state of the hash -/
  digest      : List Byte
  /-- the recomputed tag -/
  tag         : List Byte
deriving DecidableEq, Repr

/-- WORK cleared (40_lifecycle.md R111, 10_state.md R45). -/
def Work.empty : Work :=
  { keySchedule := [], padded := [], ciphertext := [], decrypted := [], recovered := [], digest := [], tag := [] }

/-- MEM (10_state.md R36) as (address, byte) pairs in one canonical form (`Memory.wf`). An address that is not
listed reads as 0 (log 2). -/
abbrev Memory := List Host.Cell

/-- One entry of the total order of steps (20_memory.md R75): a host transaction (R60), a turn of the sequencer
(40_lifecycle.md R114), or a reset (70_reset_and_hazards.md R280). -/
inductive Event where
  /-- `HostRead(off, size)`. -/
  | read (off size : Nat)
  /-- `HostWrite(off, size, value)`; the low `size` bytes of `value` count. -/
  | write (off size : Nat) (value : Word)
  /-- The sequencer moves: it completes the command in execution, and does nothing when there is none. -/
  | sequencer
  /-- Reset. What MEM and LCMD hold afterwards is open (R45), so the entry carries it: any value. -/
  | reset (mem : List Host.Cell) (lcmd : Word)
deriving DecidableEq, Repr

/-- What the bus answered to the last host transaction (20_memory.md R60, R66). -/
inductive BusResponse where
  /-- there has been no transaction since reset -/
  | idle
  /-- a write was accepted, which a dropped write (R70) and a write to a read-only register (R69) are too -/
  | ok
  /-- the value of a read, zero-extended to the bus width -/
  | data (value : Word)
  /-- the transaction was not performed (R66) -/
  | busError
deriving DecidableEq, Repr

structure State where
  /-- CKEY[0..31] (10_state.md R21). -/
  ckey    : Vector Byte 32
  /-- MKEY[0..31] (R22). -/
  mkey    : Vector Byte 32
  /-- IV[0..15] (R23). -/
  iv      : Vector Byte 16
  /-- TAGI[0..7] (R24). -/
  tagi    : Vector Byte 8
  /-- TAGO[0..7] (R25). -/
  tago    : Vector Byte 8
  /-- CKEY_LEN (R26). -/
  ckeyLen : Word
  /-- MKEY_LEN (R26). -/
  mkeyLen : Word
  /-- IV_LEN (R26). -/
  ivLen   : Word
  /-- TAGI_LEN (R26). -/
  tagiLen : Word
  /-- SRC_ADDR (R27). -/
  srcAddr : Word
  /-- SRC_LEN (R27). -/
  srcLen  : Word
  /-- DST_ADDR (R27). -/
  dstAddr : Word
  /-- DST_LEN (R28). -/
  dstLen  : Word
  /-- MEM (R36). -/
  mem     : Memory
  /-- STATUS (R32). -/
  status  : Status
  /-- CTRL (R33). -/
  ctrl    : Ctrl
  /-- MEM_SIZE (R34): the parameter MEM_BYTES of this machine; no step changes it. -/
  memSize : Word
  /-- LCMD (R41). -/
  lcmd    : Word
  /-- WORK (R42). -/
  work    : Work
  /-- TRACE (R43), oldest mark first. -/
  trace   : List Phase
  /-- The MODEL's own: the bus's answer to the last host transaction. -/
  resp    : BusResponse
  /-- The MODEL's own: the steps still to come, the next one first. -/
  agenda  : List Event
deriving DecidableEq, Repr

/-- Why a step can stop with a fault. -/
inductive Fault where
  /-- Raised by a command whose sequencer access `MemRead` or `MemWrite` leaves MEM, where 00_scope.md section 5
  leaves the two undefined. Safe: the model stops and invents no byte. The address check of 40_lifecycle.md R116
  stands before every such access. -/
  | memoryPort
deriving DecidableEq, Repr

/-- Why a step can be refused. -/
inductive Refusal where
  /-- Raised by an arm of `exec` whose instruction has no meaning yet; no arm of this model does. Safe: the model
  stops. -/
  | notModelled (mnemonic : String)
deriving DecidableEq, Repr

/-- The machine right after reset (10_state.md R45), with MEM_BYTES at its default (log 5). MEM and LCMD are
unspecified there: nothing is listed (log 2) and LCMD is 0 (log 3). -/
def State.reset : State :=
  { ckey := Vector.replicate 32 0#8, mkey := Vector.replicate 32 0#8, iv := Vector.replicate 16 0#8,
    tagi := Vector.replicate 8 0#8, tago := Vector.replicate 8 0#8,
    ckeyLen := 0#32, mkeyLen := 0#32, ivLen := 0#32, tagiLen := 0#32,
    srcAddr := 0#32, srcLen := 0#32, dstAddr := 0#32, dstLen := 0#32,
    mem := [],
    status := { busy := false, done := false, matched := false, lockErr := false, err := none },
    ctrl := { ie := false },
    memSize := BitVec.ofNat 32 Config.memBytesDefault,
    lcmd := 0#32,
    work := Work.empty,
    trace := [],
    resp := .idle,
    agenda := [] }

end Sys2Proof.Machine
end

