-- ==== Sys2Proof/Machine/Flags.lean ====
section
/-! DEFINITION. The flags of the CORE: STATUS and CTRL as words (10_state.md R32, R33), the error codes
(60_exceptions.md R240), what issue, completion, a dropped write and the host's acknowledgement do to STATUS, and
the interrupt line (60_exceptions.md R250). The CORE has no arithmetic flags (10_state.md, section 5). -/

namespace Sys2Proof.Machine

/-- The code of an error kind (60_exceptions.md R240). -/
def ErrorKind.code : ErrorKind → BitVec 4
  | .invalidKeyLength      => 1#4
  | .invalidIVLength       => 2#4
  | .invalidInputLength    => 3#4
  | .paddingError          => 4#4
  | .authenticationFailure => 5#4
  | .illegalCommand        => 6#4
  | .addressError          => 7#4

/-- The value of the field ERR: 0 where there is no error (60_exceptions.md R240). -/
def Status.errCode (st : Status) : BitVec 4 :=
  match st.err with
  | none   => 0#4
  | some e => e.code

/-- STATUS as the host reads it (10_state.md R32): BUSY in bit 0, DONE in 1, MATCH in 2, LOCKERR in 3, ERR in
11:8, every other bit 0. -/
def Status.toWord (st : Status) : Word :=
  0#20 ++ st.errCode ++ 0#4 ++ BitVec.ofBool st.lockErr ++ BitVec.ofBool st.matched ++ BitVec.ofBool st.done
    ++ BitVec.ofBool st.busy

/-- STATUS after an issue (40_lifecycle.md R111). -/
def Status.issued (_ : Status) : Status :=
  { busy := true, done := false, matched := false, lockErr := false, err := none }

/-- STATUS after an error completion (60_exceptions.md R246): MATCH and LOCKERR stay as they are. -/
def Status.failed (st : Status) (e : ErrorKind) : Status :=
  { st with busy := false, done := true, err := some e }

/-- STATUS after a successful completion with the result bit `m` (40_lifecycle.md R114, R117): LOCKERR stays as
it is. -/
def Status.succeeded (st : Status) (m : Bool) : Status :=
  { st with busy := false, done := true, matched := m, err := none }

/-- STATUS after a write was dropped (20_memory.md R70). -/
def Status.locked (st : Status) : Status :=
  { st with lockErr := true }

/-- STATUS after the host wrote `v` to it while BUSY = 0 (10_state.md R32): 1 in bit 1 clears DONE, 1 in bit 3
clears LOCKERR, every other bit is ignored. -/
def Status.acknowledged (st : Status) (v : Word) : Status :=
  { st with done := st.done && !v.getLsbD 1, lockErr := st.lockErr && !v.getLsbD 3 }

/-- CTRL as the host reads it (10_state.md R33): IE in bit 0, every other bit 0. -/
def Ctrl.toWord (c : Ctrl) : Word :=
  0#31 ++ BitVec.ofBool c.ie

/-- CTRL after the host wrote `v` to it (10_state.md R33). -/
def Ctrl.ofWord (v : Word) : Ctrl :=
  { ie := v.getLsbD 0 }

/-- The output `irq`: `STATUS.DONE and CTRL.IE`, level-sensitive (10_state.md R46, 60_exceptions.md R250). -/
def State.irq (s : State) : Bool :=
  s.status.done && s.ctrl.ie

end Sys2Proof.Machine
end

