-- ==== Sys2Proof/Machine/Bytes.lean ====
section
/-! DEFINITION. Byte strings and how they sit in words: cutting a string into blocks, exclusive-or, the
little-endian lanes of the bus (20_memory.md R63, R64) and the big-endian words of SHA-256
(49_prim_sha256_hmac.md R222). -/

namespace Sys2Proof.Machine

/-- The first `k` blocks of `size` bytes of a byte string. -/
def takeBlocks (size : Nat) : Nat → List Byte → List (List Byte)
  | 0, _ => []
  | k + 1, l => l.take size :: takeBlocks size k (l.drop size)

/-- A byte string cut into blocks of `size` bytes, ascending; used where the length is a multiple of `size`. -/
def blocksOf (size : Nat) (l : List Byte) : List (List Byte) :=
  takeBlocks size (l.length / size) l

/-- Byte-wise exclusive-or; on two 16-byte strings `xor16` (00_scope.md, section 5). -/
def xorBytes (a b : List Byte) : List Byte :=
  List.zipWith (fun x y => x ^^^ y) a b

/-- Byte lane `k` of a word, lane 0 in bits 7:0 (20_memory.md R63). -/
def leByte (w : Word) (k : Nat) : Byte :=
  w.extractLsb' (8 * k) 8

/-- The word of four bytes, the first in bits 7:0 (20_memory.md R63). -/
def leWord (b0 b1 b2 b3 : Byte) : Word :=
  b3 ++ b2 ++ b1 ++ b0

/-- The low `n` lanes of a word, lowest first. -/
def leBytes (w : Word) (n : Nat) : List Byte :=
  (List.range n).map (leByte w)

/-- The word whose low lanes are the bytes of a string of at most 4 bytes, the rest 0. -/
def leOfBytes (l : List Byte) : Word :=
  leWord (l.getD 0 0#8) (l.getD 1 0#8) (l.getD 2 0#8) (l.getD 3 0#8)

/-- The word of four bytes, the first in bits 31:24 (49_prim_sha256_hmac.md R222). -/
def beWord (b0 b1 b2 b3 : Byte) : Word :=
  b0 ++ b1 ++ b2 ++ b3

/-- The four bytes of a word, most significant first (49_prim_sha256_hmac.md R222). -/
def beBytes (w : Word) : List Byte :=
  [w.extractLsb' 24 8, w.extractLsb' 16 8, w.extractLsb' 8 8, w.extractLsb' 0 8]

/-- The 8-byte big-endian encoding of a number below 2^64 (49_prim_sha256_hmac.md R223). -/
def beBytes64 (n : Nat) : List Byte :=
  beBytes (BitVec.ofNat 32 (n / 2 ^ 32)) ++ beBytes (BitVec.ofNat 32 n)

/-- The words of a byte string, big-endian, four bytes each (49_prim_sha256_hmac.md R222). -/
def beWords : List Byte → List Word
  | b0 :: b1 :: b2 :: b3 :: rest => beWord b0 b1 b2 b3 :: beWords rest
  | _ => []

/-- A byte-register file holding the first `n` bytes of a string, 0 past its end. -/
def fileOfBytes (n : Nat) (l : List Byte) : Vector Byte n :=
  Vector.ofFn fun i => l.getD i.val 0#8

/-- Word `k` of a byte-register file: bytes `4k` to `4k+3`, little-endian (20_memory.md R63). -/
def fileWord {n : Nat} (f : Vector Byte n) (k : Nat) : Word :=
  leWord (f.toList.getD (4 * k) 0#8) (f.toList.getD (4 * k + 1) 0#8)
    (f.toList.getD (4 * k + 2) 0#8) (f.toList.getD (4 * k + 3) 0#8)

/-- A byte-register file with word `k` written (20_memory.md R63). -/
def setFileWord {n : Nat} (f : Vector Byte n) (k : Nat) (w : Word) : Vector Byte n :=
  (((f.setIfInBounds (4 * k) (leByte w 0)).setIfInBounds (4 * k + 1) (leByte w 1)).setIfInBounds
    (4 * k + 2) (leByte w 2)).setIfInBounds (4 * k + 3) (leByte w 3)

end Sys2Proof.Machine
end

