-- ==== Sys2Proof/Machine/Ops.lean ====
section
/-! DEFINITION. The shared operations: reading and writing MEM, issue (40_lifecycle.md R111), the commit of a
success (R117), the error completion (60_exceptions.md R246), which is the CORE's only kind of exception, with
what acknowledges it beside it, WIPE's effect (46_system.md R185) and reset (70_reset_and_hazards.md R280). -/

namespace Sys2Proof.Machine

/-! ### MEM (10_state.md R36) -/

/-- One byte of MEM. An address that is not listed reads as 0 (log 2). -/
def Memory.read (m : Memory) (a : Nat) : Byte :=
  match m with
  | [] => 0#8
  | (b, v) :: rest => if a = b then v else Memory.read rest a

/-- `m` with the entry `(a, v)` put before the first higher address. -/
def Memory.insert (m : Memory) (a : Nat) (v : Byte) : Memory :=
  match m with
  | [] => [(a, v)]
  | (b, w) :: rest => if a < b then (a, v) :: (b, w) :: rest else (b, w) :: Memory.insert rest a v

/-- One byte written. The value an unlisted address reads as leaves no entry, so that equal memories are equal
data. -/
def Memory.write (m : Memory) (a : Nat) (v : Byte) : Memory :=
  let others := m.filter (fun c => c.1 != a)
  if v = 0#8 then others else Memory.insert others a v

/-- `n` bytes from `a` on, ascending. -/
def Memory.readN (m : Memory) (a : Nat) : Nat → List Byte
  | 0 => []
  | n + 1 => Memory.read m a :: Memory.readN m (a + 1) n

/-- A byte string written from `a` on, ascending. -/
def Memory.writeN (m : Memory) (a : Nat) : List Byte → Memory
  | [] => m
  | b :: bs => Memory.writeN (Memory.write m a b) (a + 1) bs

/-- The canonical form: addresses strictly rising, no entry equal to what an unlisted address reads as. -/
abbrev Memory.wf (m : Memory) : Prop :=
  m.Pairwise (fun c d => c.1 < d.1) ∧ ∀ c ∈ m, c.2 ≠ 0#8

/-- Every listed address lies in MEM. -/
abbrev Memory.within (n : Nat) (m : Memory) : Prop :=
  ∀ c ∈ m, c.1 < n

/-- The memory of `n` bytes that holds the listed bytes, the last one listed for an address, and 0 elsewhere. -/
def Memory.load (n : Nat) (cells : List Host.Cell) : Memory :=
  cells.foldl (fun m c => if c.1 < n then Memory.write m c.1 c.2 else m) []

/-- MEM_BYTES of this machine (10_state.md R34). -/
def State.memBytes (s : State) : Nat :=
  s.memSize.toNat

/-- `MemRead(addr, n)`, the sequencer's read, defined only inside MEM (00_scope.md, section 5; 20_memory.md R72). -/
def State.memRead (s : State) (a n : Nat) : Option (List Byte) :=
  if a + n ≤ s.memBytes then some (Memory.readN s.mem a n) else none

/-- `MemWrite(addr, |v|, v)`, the sequencer's write, defined only inside MEM (00_scope.md, section 5; 20_memory.md
R72). -/
def State.memWrite (s : State) (a : Nat) (v : List Byte) : Option State :=
  if a + v.length ≤ s.memBytes then some { s with mem := Memory.writeN s.mem a v } else none

/-! ### Issue (40_lifecycle.md R110, R111) -/

/-- What a CMD write does while BUSY = 0 (40_lifecycle.md R111). Any word is accepted (R110). -/
def State.issue (s : State) (w : Word) : State :=
  { s with
    lcmd := w
    status := s.status.issued
    dstLen := 0#32
    tago := Vector.replicate 8 0#8
    trace := []
    work := Work.empty }

/-! ### Completion (40_lifecycle.md R113, R114, R117; 60_exceptions.md R246) -/

/-- `ok(out, tag, match, wipe)`: the results of a successful command (40_lifecycle.md R113). -/
structure Effects where
  out     : Option (List Byte)
  tag     : Option (Vector Byte 8)
  matched : Bool
  wipe    : Bool
deriving DecidableEq, Repr

/-- The outcome of `Exec` (40_lifecycle.md R113), with the phases it went through (R121) and what it leaves in
WORK (10_state.md R42). -/
structure CommandRun where
  result : Except ErrorKind Effects
  phases : List Phase
  work   : Work

/-- A body that raised an error (00_scope.md, section 5, Errors). -/
def CommandRun.raise (e : ErrorKind) (phases : List Phase) (work : Work) : CommandRun :=
  { result := .error e, phases := phases, work := work }

/-- A body that returned its results. -/
def CommandRun.succeed (eff : Effects) (phases : List Phase) (work : Work) : CommandRun :=
  { result := .ok eff, phases := phases, work := work }

/-- WIPE's effect at commit (46_system.md R185). CTRL, MEM_SIZE, STATUS and LCMD are not touched. -/
def State.wiped (s : State) : State :=
  { s with
    ckey := Vector.replicate 32 0#8
    mkey := Vector.replicate 32 0#8
    iv := Vector.replicate 16 0#8
    tagi := Vector.replicate 8 0#8
    tago := Vector.replicate 8 0#8
    ckeyLen := 0#32
    mkeyLen := 0#32
    ivLen := 0#32
    tagiLen := 0#32
    srcAddr := 0#32
    srcLen := 0#32
    dstAddr := 0#32
    dstLen := 0#32
    mem := []
    work := Work.empty }

/-- TRACE with the phases of a command appended (40_lifecycle.md R121; in one go, log 13) and WORK as the command left
it (10_state.md R42). -/
def State.recorded (s : State) (phases : List Phase) (work : Work) : State :=
  { s with trace := s.trace ++ phases, work := work }

/-- TAKING AN EXCEPTION: the error completion (60_exceptions.md R246). Nothing but STATUS is written; nothing is
saved and there is nowhere to go (R246). -/
def State.errorCompletion (s : State) (e : ErrorKind) : State :=
  { s with status := s.status.failed e }

/-- What stands for THE RETURN FROM AN EXCEPTION: no instruction restores anything, and the host acknowledges a
completion by a write to STATUS (60_exceptions.md R248), which is this. -/
def State.acknowledge (s : State) (v : Word) : State :=
  { s with status := s.status.acknowledged v }

/-- The output byte string put at DST_ADDR and its length into DST_LEN (40_lifecycle.md R117). -/
def State.commitOut (s : State) (out : Option (List Byte)) : Option State :=
  match out with
  | none => some s
  | some bytes =>
    match s.memWrite s.dstAddr.toNat bytes with
    | none => none
    | some t => some { t with dstLen := BitVec.ofNat 32 bytes.length }

/-- The tag put into TAGO (40_lifecycle.md R117). -/
def State.commitTag (s : State) (tag : Option (Vector Byte 8)) : State :=
  match tag with
  | none => s
  | some t => { s with tago := t }

/-- The successful completion: the commit (40_lifecycle.md R117), then ERR <- 0, BUSY <- 0, DONE <- 1 (R114). -/
def State.commit (s : State) (eff : Effects) : Option State :=
  match (if eff.wipe then s.wiped else s).commitOut eff.out with
  | none => none
  | some t =>
    let u := t.commitTag eff.tag
    some { u with status := u.status.succeeded eff.matched }

/-- The completion step of a command whose body is `r` (40_lifecycle.md R114); issue lies before it (log 19). -/
def State.complete (s : State) (r : CommandRun) : Host.Outcome State Fault Refusal :=
  let t := s.recorded r.phases r.work
  match r.result with
  | .error e => .next (t.errorCompletion e)
  | .ok eff =>
    match t.commit eff with
    | none => .fault .memoryPort
    | some u => .next u

/-! ### Reset (70_reset_and_hazards.md R280, R281) -/

/-- The reset step: the state of 10_state.md R45 whatever stood before, with the open contents of MEM and LCMD
supplied by the reset itself (logs 4 and 20). MEM_SIZE is a constant of the machine, and what the host is going to do lies
outside it. -/
def State.resetStep (s : State) (cells : List Host.Cell) (lcmd : Word) : State :=
  { State.reset with
    memSize := s.memSize
    mem := Memory.load s.memBytes cells
    lcmd := lcmd
    agenda := s.agenda }

end Sys2Proof.Machine
end

