-- ==== Sys2Proof/Machine/Bus.lean ====
section
/-! DEFINITION. The host interface (20_memory.md R60 to R71): the register map (R62), which accesses are bus errors
(R65, R66), and what `HostRead` and `HostWrite` do. -/

namespace Sys2Proof.Machine

/-- The 32-bit registers of the map (20_memory.md R62). -/
inductive Reg where
  | id
  | cmd
  | status
  | ctrl
  | srcAddr
  | srcLen
  | dstAddr
  | dstLen
  | ckeyLen
  | mkeyLen
  | ivLen
  | tagiLen
  | memSize
  | ckeyW (k : Nat)
  | mkeyW (k : Nat)
  | ivW (k : Nat)
  | tagiW (k : Nat)
  | tagoW (k : Nat)
deriving DecidableEq, Repr

/-- The register map (20_memory.md R62). Offsets that are not listed are unmapped. -/
def regMap : List (Nat × Reg) :=
  [(0x00, .id), (0x04, .cmd), (0x08, .status), (0x0C, .ctrl),
   (0x10, .srcAddr), (0x14, .srcLen), (0x18, .dstAddr), (0x1C, .dstLen),
   (0x20, .ckeyLen), (0x24, .mkeyLen), (0x28, .ivLen), (0x2C, .tagiLen), (0x30, .memSize),
   (0x40, .ckeyW 0), (0x44, .ckeyW 1), (0x48, .ckeyW 2), (0x4C, .ckeyW 3),
   (0x50, .ckeyW 4), (0x54, .ckeyW 5), (0x58, .ckeyW 6), (0x5C, .ckeyW 7),
   (0x60, .mkeyW 0), (0x64, .mkeyW 1), (0x68, .mkeyW 2), (0x6C, .mkeyW 3),
   (0x70, .mkeyW 4), (0x74, .mkeyW 5), (0x78, .mkeyW 6), (0x7C, .mkeyW 7),
   (0x80, .ivW 0), (0x84, .ivW 1), (0x88, .ivW 2), (0x8C, .ivW 3),
   (0x90, .tagiW 0), (0x94, .tagiW 1),
   (0xA0, .tagoW 0), (0xA4, .tagoW 1)]

/-- The first offset of the MEM window (20_memory.md R61). -/
def windowBase : Nat := 0x1000

/-- The value of ID (10_state.md R30). -/
def idValue : Word := 0x43424331#32

/-- What a host access reaches: a register, or MEM from an address on. -/
inductive Target where
  | reg (r : Reg)
  | mem (a : Nat)
deriving DecidableEq, Repr

/-- The sizes the MEM window takes (20_memory.md R65). -/
def windowSizeOk (size : Nat) : Bool :=
  size == 1 || size == 2 || size == 4

/-- What an access of `size` bytes at offset `off` reaches, `none` for a bus error (20_memory.md R65, R66). -/
def resolve (memBytes off size : Nat) : Option Target :=
  if off < windowBase then
    if size = 4 ∧ off % 4 = 0 then (regMap.lookup off).map Target.reg else none
  else
    if windowSizeOk size ∧ off % size = 0 ∧ off + size ≤ windowBase + memBytes then some (.mem (off - windowBase))
    else none

/-- The value of a register as the host reads it (20_memory.md R62): key registers and CMD read 0 (R68). -/
def State.readReg (s : State) : Reg → Word
  | .id      => idValue
  | .cmd     => 0#32
  | .status  => s.status.toWord
  | .ctrl    => s.ctrl.toWord
  | .srcAddr => s.srcAddr
  | .srcLen  => s.srcLen
  | .dstAddr => s.dstAddr
  | .dstLen  => s.dstLen
  | .ckeyLen => s.ckeyLen
  | .mkeyLen => s.mkeyLen
  | .ivLen   => s.ivLen
  | .tagiLen => s.tagiLen
  | .memSize => s.memSize
  | .ckeyW _ => 0#32
  | .mkeyW _ => 0#32
  | .ivW k   => fileWord s.iv k
  | .tagiW k => fileWord s.tagi k
  | .tagoW k => fileWord s.tago k

/-- A register written by the host while BUSY = 0 (20_memory.md R62, R67): CMD issues (40_lifecycle.md R110), STATUS
acknowledges (10_state.md R32), a read-only register changes nothing (R69), every other one stores the value. -/
def State.writeReg (s : State) (r : Reg) (v : Word) : State :=
  match r with
  | .id      => s
  | .cmd     => s.issue v
  | .status  => s.acknowledge v
  | .ctrl    => { s with ctrl := Ctrl.ofWord v }
  | .srcAddr => { s with srcAddr := v }
  | .srcLen  => { s with srcLen := v }
  | .dstAddr => { s with dstAddr := v }
  | .dstLen  => s
  | .ckeyLen => { s with ckeyLen := v }
  | .mkeyLen => { s with mkeyLen := v }
  | .ivLen   => { s with ivLen := v }
  | .tagiLen => { s with tagiLen := v }
  | .memSize => s
  | .ckeyW k => { s with ckey := setFileWord s.ckey k v }
  | .mkeyW k => { s with mkey := setFileWord s.mkey k v }
  | .ivW k   => { s with iv := setFileWord s.iv k v }
  | .tagiW k => { s with tagi := setFileWord s.tagi k v }
  | .tagoW _ => s

/-- The value of `size` bytes of MEM from `a` on, little-endian, zero-extended (20_memory.md R64). -/
def State.readWindow (s : State) (a size : Nat) : Word :=
  leOfBytes (Memory.readN s.mem a size)

/-- The low `size` bytes of `v` stored from `a` on, little-endian (20_memory.md R64; log 16). -/
def State.writeWindow (s : State) (a size : Nat) (v : Word) : State :=
  { s with mem := Memory.writeN s.mem a (leBytes v size) }

/-- The bus answers. -/
def State.respond (s : State) (r : BusResponse) : State :=
  { s with resp := r }

/-- `HostRead(off, size)` (20_memory.md R60): it changes nothing but the bus's answer (R67), busy or not (R71). -/
def State.hostRead (s : State) (off size : Nat) : State :=
  match resolve s.memBytes off size with
  | none          => s.respond .busError
  | some (.reg r) => s.respond (.data (s.readReg r))
  | some (.mem a) => s.respond (.data (s.readWindow a size))

/-- A write that reached `t` while BUSY = 0. -/
def State.writeTarget (s : State) (t : Target) (size : Nat) (v : Word) : State :=
  match t with
  | .reg r => s.writeReg r v
  | .mem a => s.writeWindow a size v

/-- `HostWrite(off, size, value)` (20_memory.md R60): the bus-error check first (R66), then the drop while BUSY = 1
(R70), then the write. -/
def State.hostWrite (s : State) (off size : Nat) (v : Word) : State :=
  match resolve s.memBytes off size with
  | none => s.respond .busError
  | some t =>
    if s.status.busy then { s with status := s.status.locked }.respond .ok
    else (s.writeTarget t size v).respond .ok

end Sys2Proof.Machine
end

