-- ==== Sys2Proof/Machine/Aes.lean ====
section
/-! DEFINITION. The block primitive `BlockEnc`, `BlockDec`: AES-128 and AES-256 (48_prim_aes.md R200 to R212), the
decided instance of the parameter CIPHER (00_scope.md R8; log 6). -/

namespace Sys2Proof.Machine

/-! ### Data layout (R200) -/

/-- A word of AES: four bytes `[a0, a1, a2, a3]`; a column of the state (R200). -/
structure AesColumn where
  a0 : Byte
  a1 : Byte
  a2 : Byte
  a3 : Byte
deriving DecidableEq, Repr

/-- The state of AES by its four columns: byte `s[r][c]` is byte `r` of column `c` (R200). -/
structure AesState where
  c0 : AesColumn
  c1 : AesColumn
  c2 : AesColumn
  c3 : AesColumn
deriving DecidableEq, Repr

/-- The column of block bytes `B[4c]` to `B[4c+3]` (R200). -/
def aesColumnOf (b : List Byte) (c : Nat) : AesColumn :=
  { a0 := b.getD (4 * c) 0#8, a1 := b.getD (4 * c + 1) 0#8, a2 := b.getD (4 * c + 2) 0#8, a3 := b.getD (4 * c + 3) 0#8 }

/-- The state of a 16-byte block, filled column by column (R200). -/
def aesStateOf (b : List Byte) : AesState :=
  { c0 := aesColumnOf b 0, c1 := aesColumnOf b 1, c2 := aesColumnOf b 2, c3 := aesColumnOf b 3 }

/-- The bytes of a word, in order (R200). -/
def AesColumn.bytes (w : AesColumn) : List Byte :=
  [w.a0, w.a1, w.a2, w.a3]

/-- The block of a state, read back column by column (R200). -/
def AesState.block (s : AesState) : List Byte :=
  s.c0.bytes ++ s.c1.bytes ++ s.c2.bytes ++ s.c3.bytes

/-- A word with a function applied to each of its bytes. -/
def AesColumn.map (f : Byte → Byte) (w : AesColumn) : AesColumn :=
  { a0 := f w.a0, a1 := f w.a1, a2 := f w.a2, a3 := f w.a3 }

/-- Byte-wise exclusive-or of words (R210). -/
def AesColumn.xor (u v : AesColumn) : AesColumn :=
  { a0 := u.a0 ^^^ v.a0, a1 := u.a1 ^^^ v.a1, a2 := u.a2 ^^^ v.a2, a3 := u.a3 ^^^ v.a3 }

/-- A state with a function applied to each of its columns. -/
def AesState.mapColumns (f : AesColumn → AesColumn) (s : AesState) : AesState :=
  { c0 := f s.c0, c1 := f s.c1, c2 := f s.c2, c3 := f s.c3 }

/-! ### Arithmetic in GF(2^8) (R202) -/

/-- Multiplication by `x` (R202). -/
def xtime (a : Byte) : Byte :=
  if a.getLsbD 7 then (a <<< 1) ^^^ 0x1b#8 else a <<< 1

/-- The exclusive-or, over the set bits `i` among the low `n` bits of `b`, of `xtime` applied `i` times to `a`. -/
def gfMulBits : Nat → Byte → Byte → Byte
  | 0, _, _ => 0#8
  | n + 1, a, b => (if b.getLsbD 0 then a else 0#8) ^^^ gfMulBits n (xtime a) (b >>> 1)

/-- The product `a * b` of GF(2^8) (R202). -/
def gfMul (a b : Byte) : Byte :=
  gfMulBits 8 a b

/-! ### S-box (R203, R204) -/

/-- The table of `SBox` (R203): row by the high hex digit, column by the low one. -/
def sboxTable : List (List Byte) :=
  [[0x63#8, 0x7c#8, 0x77#8, 0x7b#8, 0xf2#8, 0x6b#8, 0x6f#8, 0xc5#8, 0x30#8, 0x01#8, 0x67#8, 0x2b#8, 0xfe#8, 0xd7#8, 0xab#8, 0x76#8],
   [0xca#8, 0x82#8, 0xc9#8, 0x7d#8, 0xfa#8, 0x59#8, 0x47#8, 0xf0#8, 0xad#8, 0xd4#8, 0xa2#8, 0xaf#8, 0x9c#8, 0xa4#8, 0x72#8, 0xc0#8],
   [0xb7#8, 0xfd#8, 0x93#8, 0x26#8, 0x36#8, 0x3f#8, 0xf7#8, 0xcc#8, 0x34#8, 0xa5#8, 0xe5#8, 0xf1#8, 0x71#8, 0xd8#8, 0x31#8, 0x15#8],
   [0x04#8, 0xc7#8, 0x23#8, 0xc3#8, 0x18#8, 0x96#8, 0x05#8, 0x9a#8, 0x07#8, 0x12#8, 0x80#8, 0xe2#8, 0xeb#8, 0x27#8, 0xb2#8, 0x75#8],
   [0x09#8, 0x83#8, 0x2c#8, 0x1a#8, 0x1b#8, 0x6e#8, 0x5a#8, 0xa0#8, 0x52#8, 0x3b#8, 0xd6#8, 0xb3#8, 0x29#8, 0xe3#8, 0x2f#8, 0x84#8],
   [0x53#8, 0xd1#8, 0x00#8, 0xed#8, 0x20#8, 0xfc#8, 0xb1#8, 0x5b#8, 0x6a#8, 0xcb#8, 0xbe#8, 0x39#8, 0x4a#8, 0x4c#8, 0x58#8, 0xcf#8],
   [0xd0#8, 0xef#8, 0xaa#8, 0xfb#8, 0x43#8, 0x4d#8, 0x33#8, 0x85#8, 0x45#8, 0xf9#8, 0x02#8, 0x7f#8, 0x50#8, 0x3c#8, 0x9f#8, 0xa8#8],
   [0x51#8, 0xa3#8, 0x40#8, 0x8f#8, 0x92#8, 0x9d#8, 0x38#8, 0xf5#8, 0xbc#8, 0xb6#8, 0xda#8, 0x21#8, 0x10#8, 0xff#8, 0xf3#8, 0xd2#8],
   [0xcd#8, 0x0c#8, 0x13#8, 0xec#8, 0x5f#8, 0x97#8, 0x44#8, 0x17#8, 0xc4#8, 0xa7#8, 0x7e#8, 0x3d#8, 0x64#8, 0x5d#8, 0x19#8, 0x73#8],
   [0x60#8, 0x81#8, 0x4f#8, 0xdc#8, 0x22#8, 0x2a#8, 0x90#8, 0x88#8, 0x46#8, 0xee#8, 0xb8#8, 0x14#8, 0xde#8, 0x5e#8, 0x0b#8, 0xdb#8],
   [0xe0#8, 0x32#8, 0x3a#8, 0x0a#8, 0x49#8, 0x06#8, 0x24#8, 0x5c#8, 0xc2#8, 0xd3#8, 0xac#8, 0x62#8, 0x91#8, 0x95#8, 0xe4#8, 0x79#8],
   [0xe7#8, 0xc8#8, 0x37#8, 0x6d#8, 0x8d#8, 0xd5#8, 0x4e#8, 0xa9#8, 0x6c#8, 0x56#8, 0xf4#8, 0xea#8, 0x65#8, 0x7a#8, 0xae#8, 0x08#8],
   [0xba#8, 0x78#8, 0x25#8, 0x2e#8, 0x1c#8, 0xa6#8, 0xb4#8, 0xc6#8, 0xe8#8, 0xdd#8, 0x74#8, 0x1f#8, 0x4b#8, 0xbd#8, 0x8b#8, 0x8a#8],
   [0x70#8, 0x3e#8, 0xb5#8, 0x66#8, 0x48#8, 0x03#8, 0xf6#8, 0x0e#8, 0x61#8, 0x35#8, 0x57#8, 0xb9#8, 0x86#8, 0xc1#8, 0x1d#8, 0x9e#8],
   [0xe1#8, 0xf8#8, 0x98#8, 0x11#8, 0x69#8, 0xd9#8, 0x8e#8, 0x94#8, 0x9b#8, 0x1e#8, 0x87#8, 0xe9#8, 0xce#8, 0x55#8, 0x28#8, 0xdf#8],
   [0x8c#8, 0xa1#8, 0x89#8, 0x0d#8, 0xbf#8, 0xe6#8, 0x42#8, 0x68#8, 0x41#8, 0x99#8, 0x2d#8, 0x0f#8, 0xb0#8, 0x54#8, 0xbb#8, 0x16#8]]

/-- The table of `InvSBox` (R204). -/
def invSboxTable : List (List Byte) :=
  [[0x52#8, 0x09#8, 0x6a#8, 0xd5#8, 0x30#8, 0x36#8, 0xa5#8, 0x38#8, 0xbf#8, 0x40#8, 0xa3#8, 0x9e#8, 0x81#8, 0xf3#8, 0xd7#8, 0xfb#8],
   [0x7c#8, 0xe3#8, 0x39#8, 0x82#8, 0x9b#8, 0x2f#8, 0xff#8, 0x87#8, 0x34#8, 0x8e#8, 0x43#8, 0x44#8, 0xc4#8, 0xde#8, 0xe9#8, 0xcb#8],
   [0x54#8, 0x7b#8, 0x94#8, 0x32#8, 0xa6#8, 0xc2#8, 0x23#8, 0x3d#8, 0xee#8, 0x4c#8, 0x95#8, 0x0b#8, 0x42#8, 0xfa#8, 0xc3#8, 0x4e#8],
   [0x08#8, 0x2e#8, 0xa1#8, 0x66#8, 0x28#8, 0xd9#8, 0x24#8, 0xb2#8, 0x76#8, 0x5b#8, 0xa2#8, 0x49#8, 0x6d#8, 0x8b#8, 0xd1#8, 0x25#8],
   [0x72#8, 0xf8#8, 0xf6#8, 0x64#8, 0x86#8, 0x68#8, 0x98#8, 0x16#8, 0xd4#8, 0xa4#8, 0x5c#8, 0xcc#8, 0x5d#8, 0x65#8, 0xb6#8, 0x92#8],
   [0x6c#8, 0x70#8, 0x48#8, 0x50#8, 0xfd#8, 0xed#8, 0xb9#8, 0xda#8, 0x5e#8, 0x15#8, 0x46#8, 0x57#8, 0xa7#8, 0x8d#8, 0x9d#8, 0x84#8],
   [0x90#8, 0xd8#8, 0xab#8, 0x00#8, 0x8c#8, 0xbc#8, 0xd3#8, 0x0a#8, 0xf7#8, 0xe4#8, 0x58#8, 0x05#8, 0xb8#8, 0xb3#8, 0x45#8, 0x06#8],
   [0xd0#8, 0x2c#8, 0x1e#8, 0x8f#8, 0xca#8, 0x3f#8, 0x0f#8, 0x02#8, 0xc1#8, 0xaf#8, 0xbd#8, 0x03#8, 0x01#8, 0x13#8, 0x8a#8, 0x6b#8],
   [0x3a#8, 0x91#8, 0x11#8, 0x41#8, 0x4f#8, 0x67#8, 0xdc#8, 0xea#8, 0x97#8, 0xf2#8, 0xcf#8, 0xce#8, 0xf0#8, 0xb4#8, 0xe6#8, 0x73#8],
   [0x96#8, 0xac#8, 0x74#8, 0x22#8, 0xe7#8, 0xad#8, 0x35#8, 0x85#8, 0xe2#8, 0xf9#8, 0x37#8, 0xe8#8, 0x1c#8, 0x75#8, 0xdf#8, 0x6e#8],
   [0x47#8, 0xf1#8, 0x1a#8, 0x71#8, 0x1d#8, 0x29#8, 0xc5#8, 0x89#8, 0x6f#8, 0xb7#8, 0x62#8, 0x0e#8, 0xaa#8, 0x18#8, 0xbe#8, 0x1b#8],
   [0xfc#8, 0x56#8, 0x3e#8, 0x4b#8, 0xc6#8, 0xd2#8, 0x79#8, 0x20#8, 0x9a#8, 0xdb#8, 0xc0#8, 0xfe#8, 0x78#8, 0xcd#8, 0x5a#8, 0xf4#8],
   [0x1f#8, 0xdd#8, 0xa8#8, 0x33#8, 0x88#8, 0x07#8, 0xc7#8, 0x31#8, 0xb1#8, 0x12#8, 0x10#8, 0x59#8, 0x27#8, 0x80#8, 0xec#8, 0x5f#8],
   [0x60#8, 0x51#8, 0x7f#8, 0xa9#8, 0x19#8, 0xb5#8, 0x4a#8, 0x0d#8, 0x2d#8, 0xe5#8, 0x7a#8, 0x9f#8, 0x93#8, 0xc9#8, 0x9c#8, 0xef#8],
   [0xa0#8, 0xe0#8, 0x3b#8, 0x4d#8, 0xae#8, 0x2a#8, 0xf5#8, 0xb0#8, 0xc8#8, 0xeb#8, 0xbb#8, 0x3c#8, 0x83#8, 0x53#8, 0x99#8, 0x61#8],
   [0x17#8, 0x2b#8, 0x04#8, 0x7e#8, 0xba#8, 0x77#8, 0xd6#8, 0x26#8, 0xe1#8, 0x69#8, 0x14#8, 0x63#8, 0x55#8, 0x21#8, 0x0c#8, 0x7d#8]]

/-- The entry of a table at a byte's two hex digits. -/
def tableAt (t : List (List Byte)) (a : Byte) : Byte :=
  (t.getD (a.toNat / 16) []).getD (a.toNat % 16) 0#8

/-- `SBox` (R203). -/
def sbox (a : Byte) : Byte :=
  tableAt sboxTable a

/-- `InvSBox` (R204). -/
def invSbox (a : Byte) : Byte :=
  tableAt invSboxTable a

/-- The square of a byte in GF(2^8). -/
def gfSquare (a : Byte) : Byte :=
  gfMul a a

/-- The multiplicative inverse of GF(2^8), with the inverse of 0 taken as 0 (R202): the power 254, written as
2 + 4 + 8 + 16 + 32 + 64 + 128. -/
def gfInv (a : Byte) : Byte :=
  let a2 := gfSquare a
  let a4 := gfSquare a2
  let a8 := gfSquare a4
  let a16 := gfSquare a8
  let a32 := gfSquare a16
  let a64 := gfSquare a32
  let a128 := gfSquare a64
  gfMul a2 (gfMul a4 (gfMul a8 (gfMul a16 (gfMul a32 (gfMul a64 a128)))))

/-- The S-box by its algebraic definition (R203). -/
def sboxAlgebraic (a : Byte) : Byte :=
  let b := gfInv a
  b ^^^ b.rotateLeft 1 ^^^ b.rotateLeft 2 ^^^ b.rotateLeft 3 ^^^ b.rotateLeft 4 ^^^ 0x63#8

/-! ### Round transformations (R205 to R208) -/

/-- `SubBytes` (R205). -/
def subBytes (s : AesState) : AesState :=
  s.mapColumns (AesColumn.map sbox)

/-- `InvSubBytes` (R205). -/
def invSubBytes (s : AesState) : AesState :=
  s.mapColumns (AesColumn.map invSbox)

/-- `ShiftRows` (R206): `s'[r][c] = s[r][(c + r) mod 4]`. -/
def shiftRows (s : AesState) : AesState :=
  { c0 := { a0 := s.c0.a0, a1 := s.c1.a1, a2 := s.c2.a2, a3 := s.c3.a3 }
    c1 := { a0 := s.c1.a0, a1 := s.c2.a1, a2 := s.c3.a2, a3 := s.c0.a3 }
    c2 := { a0 := s.c2.a0, a1 := s.c3.a1, a2 := s.c0.a2, a3 := s.c1.a3 }
    c3 := { a0 := s.c3.a0, a1 := s.c0.a1, a2 := s.c1.a2, a3 := s.c2.a3 } }

/-- `InvShiftRows` (R206): `s'[r][(c + r) mod 4] = s[r][c]`. -/
def invShiftRows (s : AesState) : AesState :=
  { c0 := { a0 := s.c0.a0, a1 := s.c3.a1, a2 := s.c2.a2, a3 := s.c1.a3 }
    c1 := { a0 := s.c1.a0, a1 := s.c0.a1, a2 := s.c3.a2, a3 := s.c2.a3 }
    c2 := { a0 := s.c2.a0, a1 := s.c1.a1, a2 := s.c0.a2, a3 := s.c3.a3 }
    c3 := { a0 := s.c3.a0, a1 := s.c2.a1, a2 := s.c1.a2, a3 := s.c0.a3 } }

/-- One column of `MixColumns` (R207). -/
def mixColumn (w : AesColumn) : AesColumn :=
  { a0 := gfMul w.a0 0x02#8 ^^^ gfMul w.a1 0x03#8 ^^^ w.a2 ^^^ w.a3
    a1 := w.a0 ^^^ gfMul w.a1 0x02#8 ^^^ gfMul w.a2 0x03#8 ^^^ w.a3
    a2 := w.a0 ^^^ w.a1 ^^^ gfMul w.a2 0x02#8 ^^^ gfMul w.a3 0x03#8
    a3 := gfMul w.a0 0x03#8 ^^^ w.a1 ^^^ w.a2 ^^^ gfMul w.a3 0x02#8 }

/-- One column of `InvMixColumns` (R207). -/
def invMixColumn (w : AesColumn) : AesColumn :=
  { a0 := gfMul w.a0 0x0e#8 ^^^ gfMul w.a1 0x0b#8 ^^^ gfMul w.a2 0x0d#8 ^^^ gfMul w.a3 0x09#8
    a1 := gfMul w.a0 0x09#8 ^^^ gfMul w.a1 0x0e#8 ^^^ gfMul w.a2 0x0b#8 ^^^ gfMul w.a3 0x0d#8
    a2 := gfMul w.a0 0x0d#8 ^^^ gfMul w.a1 0x09#8 ^^^ gfMul w.a2 0x0e#8 ^^^ gfMul w.a3 0x0b#8
    a3 := gfMul w.a0 0x0b#8 ^^^ gfMul w.a1 0x0d#8 ^^^ gfMul w.a2 0x09#8 ^^^ gfMul w.a3 0x0e#8 }

/-- `MixColumns` (R207). -/
def mixColumns (s : AesState) : AesState :=
  s.mapColumns mixColumn

/-- `InvMixColumns` (R207). -/
def invMixColumns (s : AesState) : AesState :=
  s.mapColumns invMixColumn

/-- `AddRoundKey` (R208) with the four key-schedule words of a round as the columns of `k`. -/
def addRoundKey (k s : AesState) : AesState :=
  { c0 := s.c0.xor k.c0, c1 := s.c1.xor k.c1, c2 := s.c2.xor k.c2, c3 := s.c3.xor k.c3 }

/-! ### Key schedule (R209, R210) -/

/-- `rc_(i+1)` (R209). -/
def rcAfter : Nat → Byte
  | 0 => 0x01#8
  | i + 1 => xtime (rcAfter i)

/-- `Rcon[i]` for `i` from 1 on (R209). -/
def rcon (i : Nat) : AesColumn :=
  { a0 := rcAfter (i - 1), a1 := 0#8, a2 := 0#8, a3 := 0#8 }

/-- `RotWord` (R210). -/
def rotWord (w : AesColumn) : AesColumn :=
  { a0 := w.a1, a1 := w.a2, a2 := w.a3, a3 := w.a0 }

/-- `SubWord` (R210). -/
def subWord (w : AesColumn) : AesColumn :=
  w.map sbox

/-- The word of zeros. -/
def zeroColumn : AesColumn :=
  { a0 := 0#8, a1 := 0#8, a2 := 0#8, a3 := 0#8 }

/-- Word `w[i]` of the key schedule from the words before it, newest first (R210). -/
def nextScheduleWord (nk i : Nat) (ws : List AesColumn) : AesColumn :=
  let t := ws.getD 0 zeroColumn
  let t' :=
    if i % nk = 0 then (subWord (rotWord t)).xor (rcon (i / nk))
    else if nk = 8 ∧ i % nk = 4 then subWord t
    else t
  (ws.getD (nk - 1) zeroColumn).xor t'

/-- `n` more words of the key schedule from word `i` on, the words newest first (R210). -/
def extendSchedule (nk : Nat) : Nat → Nat → List AesColumn → List AesColumn
  | 0, _, ws => ws
  | n + 1, i, ws => extendSchedule nk n (i + 1) (nextScheduleWord nk i ws :: ws)

/-- The first `nk` words of the schedule: the key's own (R210). -/
def keyWords (k : List Byte) (nk : Nat) : List AesColumn :=
  (List.range nk).map (aesColumnOf k)

/-- The words of a schedule by rounds of four. -/
def roundKeysOf : List AesColumn → List AesState
  | w0 :: w1 :: w2 :: w3 :: rest => { c0 := w0, c1 := w1, c2 := w2, c3 := w3 } :: roundKeysOf rest
  | _ => []

/-- The words `w[0]`, `w[1]`, … of `KeyExpansion(K)`: `4 * (Nr + 1)` of them with `Nk = |K| / 4`, `Nr = Nk + 6`
(R210). -/
def keyExpansionWords (k : List Byte) : List AesColumn :=
  let nk := k.length / 4
  (extendSchedule nk (4 * (nk + 7) - nk) nk (keyWords k nk).reverse).reverse

/-- `KeyExpansion(K)` (R210), the words grouped as the rounds use them. -/
def keyExpansion (k : List Byte) : List AesState :=
  roundKeysOf (keyExpansionWords k)

/-! ### The cipher (R211, R212) -/

/-- One middle round of `BlockEnc` (R211). -/
def encRound (s k : AesState) : AesState :=
  addRoundKey k (mixColumns (shiftRows (subBytes s)))

/-- One middle round of `BlockDec` (R212). -/
def decRound (s k : AesState) : AesState :=
  invMixColumns (addRoundKey k (invSubBytes (invShiftRows s)))

/-- The cipher over a schedule split into its first, its middle and its last round key (R211). -/
def aesEncrypt (first last : AesState) (middle : List AesState) (s : AesState) : AesState :=
  addRoundKey last (shiftRows (subBytes (middle.foldl encRound (addRoundKey first s))))

/-- The inverse cipher over the same split schedule, the middle round keys from the last to the first (R212). -/
def aesDecrypt (first last : AesState) (middle : List AesState) (s : AesState) : AesState :=
  addRoundKey first (invSubBytes (invShiftRows (middle.reverse.foldl decRound (addRoundKey last s))))

/-- The round key of zeros, which stands where a schedule is empty. -/
def zeroRoundKey : AesState :=
  { c0 := zeroColumn, c1 := zeroColumn, c2 := zeroColumn, c3 := zeroColumn }

/-- `BlockEnc(K, B)` (R211), for a key of 16 or 32 bytes and a 16-byte block. -/
def blockEnc (k b : List Byte) : List Byte :=
  let ks := keyExpansion k
  (aesEncrypt (ks.headD zeroRoundKey) (ks.getLastD zeroRoundKey) ks.tail.dropLast (aesStateOf b)).block

/-- `BlockDec(K, B)` (R212), for a key of 16 or 32 bytes and a 16-byte block. -/
def blockDec (k b : List Byte) : List Byte :=
  let ks := keyExpansion k
  (aesDecrypt (ks.headD zeroRoundKey) (ks.getLastD zeroRoundKey) ks.tail.dropLast (aesStateOf b)).block

/-- The bytes of the expanded key schedule, `w[0]` first: what WORK holds of it (10_state.md R42). -/
def keyScheduleBytes (k : List Byte) : List Byte :=
  (keyExpansionWords k).flatMap AesColumn.bytes

end Sys2Proof.Machine
end

