-- ==== Sys2Proof/Machine/Operands.lean ====
section
/-! DEFINITION. The operand forms: the byte strings a command takes from the operand registers (10_state.md R21
to R24, 43_cbc.md R149), and from MEM through the source descriptor (20_memory.md R72) behind the address check
(40_lifecycle.md R115, R116). There is no other addressing mode (R72). -/

namespace Sys2Proof.Machine

/-- The cipher key `CKEY[0..CKEY_LEN-1]` (10_state.md R21, 43_cbc.md R149), 16 or 32 bytes after validation. -/
def State.cipherKey (s : State) : List Byte :=
  s.ckey.toList.take s.ckeyLen.toNat

/-- The MAC key `MKEY[0..31]` (10_state.md R22). -/
def State.macKey (s : State) : List Byte :=
  s.mkey.toList

/-- The initialization vector `IV[0..15]` (10_state.md R23). -/
def State.ivBytes (s : State) : List Byte :=
  s.iv.toList

/-- The presented tag `TAGI[0..7]` (10_state.md R24). -/
def State.tagBytes (s : State) : List Byte :=
  s.tagi.toList

/-- `uses_src(c)` (40_lifecycle.md R116): the command reads the source byte string. -/
def usesSource : Instr → Bool
  | .validate => false
  | .pad      => true
  | .unpad    => true
  | .encrypt  => true
  | .decrypt  => true
  | .mac      => true
  | .verify   => true
  | .sealCt   => true
  | .sealIvct => true
  | .sealPt   => true
  | .openCt   => true
  | .openIvct => true
  | .openPt   => true
  | .wipe     => false

/-- `OutMax(c, n)` (40_lifecycle.md R115): `none` where the command writes nothing to MEM. -/
def outMax (i : Instr) (n : Nat) : Option Nat :=
  match i with
  | .validate => none
  | .pad      => some (16 * (n / 16 + 1))
  | .unpad    => some n
  | .encrypt  => some n
  | .decrypt  => some n
  | .mac      => none
  | .verify   => none
  | .sealCt   => some (16 * (n / 16 + 1))
  | .sealIvct => some (16 * (n / 16 + 1))
  | .sealPt   => some (16 * (n / 16 + 1))
  | .openCt   => some n
  | .openIvct => some n
  | .openPt   => some n
  | .wipe     => none

/-- The source region lies in MEM, where the command reads one (40_lifecycle.md R116). The sum is exact. -/
def State.sourceFits (s : State) (i : Instr) : Bool :=
  !usesSource i || decide (s.srcAddr.toNat + s.srcLen.toNat ≤ s.memBytes)

/-- There is room for the longest output of the command, where it writes MEM (40_lifecycle.md R116). -/
def State.outputFits (s : State) (i : Instr) : Bool :=
  match outMax i s.srcLen.toNat with
  | none => true
  | some n => decide (s.dstAddr.toNat + n ≤ s.memBytes)

/-- The address check (40_lifecycle.md R116). -/
def State.addressOk (s : State) (i : Instr) : Bool :=
  s.sourceFits i && s.outputFits i

/-- The completion of a command that reads the source byte string (40_lifecycle.md R113): the address check, then
the body over `MemRead(SRC_ADDR, SRC_LEN)`. -/
def State.completeOver (s : State) (i : Instr) (body : List Byte → CommandRun) : Host.Outcome State Fault Refusal :=
  if s.addressOk i then
    match s.memRead s.srcAddr.toNat s.srcLen.toNat with
    | none => .fault .memoryPort
    | some src => s.complete (body src)
  else .next (s.errorCompletion .addressError)

end Sys2Proof.Machine
end

