-- ==== Sys2Proof/Machine/Padding.lean ====
section
/-! DEFINITION. The Padding Codec (42_padding.md R135, R136), its reference scan (R140), PAD (R137) and UNPAD
(R138). -/

namespace Sys2Proof.Machine

/-- The pad count of a byte string of `n` bytes, 1 to 16 (42_padding.md R135). -/
def padCount (n : Nat) : Nat :=
  16 - n % 16

/-- `Pad(d)` (42_padding.md R135). -/
def pad (d : List Byte) : List Byte :=
  d ++ List.replicate (padCount d.length) (BitVec.ofNat 8 (padCount d.length))

/-- `Unpad(d)` (42_padding.md R136): `none` for err(PaddingError), the only error it has. -/
def unpad (d : List Byte) : Option (List Byte) :=
  let n := d.length
  if n = 0 then none
  else if n % 16 ≠ 0 then none
  else
    let p := (d.getD (n - 1) 0#8).toNat
    if p < 1 ∨ p > 16 then none
    else if (d.drop (n - p)).all (fun b => b.toNat == p) then some (d.take (n - p))
    else none

/-- One step of the reference scan for each `i` of a list (42_padding.md R140). -/
def scanPadding (d : List Byte) (p : Nat) : List Nat → Bool → Bool
  | [], bad => bad
  | i :: is, bad => scanPadding d p is (bad || (decide (i ≤ p) && (d.getD (d.length - i) 0#8).toNat != p))

/-- The reference scan of the last block, a fixed trip count of 16 (42_padding.md R140): true for a bad padding.
It is offered by the spec as a reference; UNPAD and OPEN are defined by `unpad`. -/
def paddingScanFails (d : List Byte) : Bool :=
  let p := (d.getD (d.length - 1) 0#8).toNat
  scanPadding d p [1, 2, 3, 4, 5, 6, 7, 8, 9, 10, 11, 12, 13, 14, 15, 16] (p == 0 || decide (p > 16))

/-- The results of a command that produces one output byte string: `ok(out, none, 0, 0)`. -/
def Effects.output (out : List Byte) : Effects :=
  { out := some out, tag := none, matched := false, wipe := false }

/-- `Body_PAD` (42_padding.md R137). -/
def bodyPad (d : List Byte) : CommandRun :=
  .succeed (.output (pad d)) [.pad] { Work.empty with padded := pad d }

/-- `Body_UNPAD` (42_padding.md R138). -/
def bodyUnpad (d : List Byte) : CommandRun :=
  match unpad d with
  | none => .raise .paddingError [.unpad] Work.empty
  | some x => .succeed (.output x) [.unpad] { Work.empty with recovered := x }

/-- PAD (42_padding.md R137). -/
def execPad (s : State) : Host.Outcome State Fault Refusal :=
  s.completeOver .pad bodyPad

/-- UNPAD (42_padding.md R138). -/
def execUnpad (s : State) : Host.Outcome State Fault Refusal :=
  s.completeOver .unpad bodyUnpad

end Sys2Proof.Machine
end

