-- ==== Sys2Proof/Machine/Validate.lean ====
section
/-! DEFINITION. The Parameter Validator (41_validate.md R125, R126) and VALIDATE (R127). -/

namespace Sys2Proof.Machine

/-- `ValidateCipher(ckl, ivl)` (41_validate.md R126): `none` for ok. -/
def validateCipher (ckl ivl : Word) : Option ErrorKind :=
  if ckl ≠ 16#32 ∧ ckl ≠ 32#32 then some .invalidKeyLength
  else if ivl ≠ 16#32 then some .invalidIVLength
  else none

/-- `ValidateMac(mkl)` (41_validate.md R126). -/
def validateMac (mkl : Word) : Option ErrorKind :=
  if mkl ≠ 32#32 then some .invalidKeyLength else none

/-- `Validate(ckl, mkl, ivl)` (41_validate.md R125): cipher key, then MAC key, then IV. -/
def validate (ckl mkl ivl : Word) : Option ErrorKind :=
  if ckl ≠ 16#32 ∧ ckl ≠ 32#32 then some .invalidKeyLength
  else if mkl ≠ 32#32 then some .invalidKeyLength
  else if ivl ≠ 16#32 then some .invalidIVLength
  else none

/-- The results of a command that only reports: `ok(none, none, match, 0)`. -/
def Effects.report (m : Bool) : Effects :=
  { out := none, tag := none, matched := m, wipe := false }

/-- `Body_VALIDATE` (41_validate.md R127). -/
def bodyValidate (ckl mkl ivl : Word) : CommandRun :=
  match validate ckl mkl ivl with
  | some e => .raise e [.v] Work.empty
  | none => .succeed (.report false) [.v] Work.empty

/-- VALIDATE (41_validate.md R127). It looks at no descriptor (40_lifecycle.md R116). -/
def execValidate (s : State) : Host.Outcome State Fault Refusal :=
  s.complete (bodyValidate s.ckeyLen s.mkeyLen s.ivLen)

end Sys2Proof.Machine
end

