-- ==== Sys2Proof/Machine/Cbc.lean ====
section
/-! DEFINITION. The Block-Cipher Engine: the chained-block mode (43_cbc.md R145, R146), ENCRYPT (R147) and
DECRYPT (R148). -/

namespace Sys2Proof.Machine

/-- The ciphertext blocks `C_1`, `C_2`, … of plaintext blocks, `prev` being `C_0` (43_cbc.md R145). -/
def cbcEncBlocks (k : List Byte) (prev : List Byte) : List (List Byte) → List (List Byte)
  | [] => []
  | p :: ps =>
    let c := blockEnc k (xorBytes p prev)
    c :: cbcEncBlocks k c ps

/-- The plaintext blocks `P_1`, `P_2`, … of ciphertext blocks, `prev` being `C_0` (43_cbc.md R146). -/
def cbcDecBlocks (k : List Byte) (prev : List Byte) : List (List Byte) → List (List Byte)
  | [] => []
  | c :: cs => xorBytes (blockDec k c) prev :: cbcDecBlocks k c cs

/-- `CbcEnc(K, iv, P)` for `|P| mod 16 = 0` (43_cbc.md R145). -/
def cbcEnc (k iv p : List Byte) : List Byte :=
  (cbcEncBlocks k iv (blocksOf 16 p)).flatten

/-- `CbcDec(K, iv, C)` for `|C| mod 16 = 0` (43_cbc.md R146). -/
def cbcDec (k iv c : List Byte) : List Byte :=
  (cbcDecBlocks k iv (blocksOf 16 c)).flatten

/-- `Body_ENCRYPT` (43_cbc.md R147). -/
def bodyEncrypt (ckl ivl : Word) (k iv p : List Byte) : CommandRun :=
  match validateCipher ckl ivl with
  | some e => .raise e [.v] Work.empty
  | none =>
    if p.length % 16 ≠ 0 then .raise .invalidInputLength [.v] Work.empty
    else
      .succeed (.output (cbcEnc k iv p)) [.v, .enc]
        { Work.empty with keySchedule := keyScheduleBytes k, ciphertext := cbcEnc k iv p }

/-- `Body_DECRYPT` (43_cbc.md R148). -/
def bodyDecrypt (ckl ivl : Word) (k iv c : List Byte) : CommandRun :=
  match validateCipher ckl ivl with
  | some e => .raise e [.v] Work.empty
  | none =>
    if c.length % 16 ≠ 0 then .raise .invalidInputLength [.v] Work.empty
    else
      .succeed (.output (cbcDec k iv c)) [.v, .dec]
        { Work.empty with keySchedule := keyScheduleBytes k, decrypted := cbcDec k iv c }

/-- ENCRYPT (43_cbc.md R147). -/
def execEncrypt (s : State) : Host.Outcome State Fault Refusal :=
  s.completeOver .encrypt (bodyEncrypt s.ckeyLen s.ivLen s.cipherKey s.ivBytes)

/-- DECRYPT (43_cbc.md R148). -/
def execDecrypt (s : State) : Host.Outcome State Fault Refusal :=
  s.completeOver .decrypt (bodyDecrypt s.ckeyLen s.ivLen s.cipherKey s.ivBytes)

end Sys2Proof.Machine
end

