-- ==== Sys2Proof/Machine/Sha256.lean ====
section
/-! DEFINITION. SHA-256 and HMAC-SHA256 (49_prim_sha256_hmac.md R221 to R228), the decided instance of the
parameter HASH (00_scope.md R8; log 7). -/

namespace Sys2Proof.Machine

/-! ### Words (R221) -/

/-- `Ch` (R221). -/
def shaCh (x y z : Word) : Word := (x &&& y) ^^^ (~~~x &&& z)

/-- `Maj` (R221). -/
def shaMaj (x y z : Word) : Word := (x &&& y) ^^^ (x &&& z) ^^^ (y &&& z)

/-- `BSig0` (R221). -/
def bSig0 (x : Word) : Word := x.rotateRight 2 ^^^ x.rotateRight 13 ^^^ x.rotateRight 22

/-- `BSig1` (R221). -/
def bSig1 (x : Word) : Word := x.rotateRight 6 ^^^ x.rotateRight 11 ^^^ x.rotateRight 25

/-- `SSig0` (R221). -/
def sSig0 (x : Word) : Word := x.rotateRight 7 ^^^ x.rotateRight 18 ^^^ (x >>> 3)

/-- `SSig1` (R221). -/
def sSig1 (x : Word) : Word := x.rotateRight 17 ^^^ x.rotateRight 19 ^^^ (x >>> 10)

/-! ### Message padding (R223) -/

/-- The least `z` with `(L + 1 + z) mod 64 = 56` (R223). -/
def shaZeros (len : Nat) : Nat := (119 - len % 64) % 64

/-- `PadSha(m)` (R223). The length field holds `8 * L` modulo 2^64, which is exact below 2^61 bytes (log 18). -/
def padSha (m : List Byte) : List Byte :=
  m ++ [0x80#8] ++ List.replicate (shaZeros m.length) 0#8 ++ beBytes64 (8 * m.length)

/-! ### Constants (R224, R225) -/

/-- `K[0..63]` (R224). -/
def shaK : List Word :=
  [0x428a2f98#32, 0x71374491#32, 0xb5c0fbcf#32, 0xe9b5dba5#32, 0x3956c25b#32, 0x59f111f1#32, 0x923f82a4#32, 0xab1c5ed5#32,
   0xd807aa98#32, 0x12835b01#32, 0x243185be#32, 0x550c7dc3#32, 0x72be5d74#32, 0x80deb1fe#32, 0x9bdc06a7#32, 0xc19bf174#32,
   0xe49b69c1#32, 0xefbe4786#32, 0x0fc19dc6#32, 0x240ca1cc#32, 0x2de92c6f#32, 0x4a7484aa#32, 0x5cb0a9dc#32, 0x76f988da#32,
   0x983e5152#32, 0xa831c66d#32, 0xb00327c8#32, 0xbf597fc7#32, 0xc6e00bf3#32, 0xd5a79147#32, 0x06ca6351#32, 0x14292967#32,
   0x27b70a85#32, 0x2e1b2138#32, 0x4d2c6dfc#32, 0x53380d13#32, 0x650a7354#32, 0x766a0abb#32, 0x81c2c92e#32, 0x92722c85#32,
   0xa2bfe8a1#32, 0xa81a664b#32, 0xc24b8b70#32, 0xc76c51a3#32, 0xd192e819#32, 0xd6990624#32, 0xf40e3585#32, 0x106aa070#32,
   0x19a4c116#32, 0x1e376c08#32, 0x2748774c#32, 0x34b0bcb5#32, 0x391c0cb3#32, 0x4ed8aa4a#32, 0x5b9cca4f#32, 0x682e6ff3#32,
   0x748f82ee#32, 0x78a5636f#32, 0x84c87814#32, 0x8cc70208#32, 0x90befffa#32, 0xa4506ceb#32, 0xbef9a3f7#32, 0xc67178f2#32]

/-- The eight words of the hash value, `H[0]` first; also the working variables a to h (R226). -/
structure ShaState where
  a : Word
  b : Word
  c : Word
  d : Word
  e : Word
  f : Word
  g : Word
  h : Word
deriving DecidableEq, Repr

/-- The initial hash value (R225). -/
def shaInit : ShaState :=
  { a := 0x6a09e667#32, b := 0xbb67ae85#32, c := 0x3c6ef372#32, d := 0xa54ff53a#32, e := 0x510e527f#32, f := 0x9b05688c#32, g := 0x1f83d9ab#32, h := 0x5be0cd19#32 }

/-! ### The hash (R226) -/

/-- `W[t]` for `t` from 16 on, from the words before it, newest first (R226). -/
def nextMessageWord (ws : List Word) : Word :=
  sSig1 (ws.getD 1 0#32) + ws.getD 6 0#32 + sSig0 (ws.getD 14 0#32) + ws.getD 15 0#32

/-- `n` more words of the message schedule, newest first (R226). -/
def extendMessage : Nat → List Word → List Word
  | 0, ws => ws
  | n + 1, ws => extendMessage n (nextMessageWord ws :: ws)

/-- `W[0..63]` of one 64-byte block (R226). -/
def messageSchedule (block : List Byte) : List Word :=
  (extendMessage 48 (beWords block).reverse).reverse

/-- One round with constant `k` and message word `w` (R226). -/
def shaRound (s : ShaState) (k w : Word) : ShaState :=
  let t1 := s.h + bSig1 s.e + shaCh s.e s.f s.g + k + w
  let t2 := bSig0 s.a + shaMaj s.a s.b s.c
  { a := t1 + t2, b := s.a, c := s.b, d := s.c, e := s.d + t1, f := s.e, g := s.f, h := s.g }

/-- The rounds of one block, constant by constant and word by word (R226). -/
def shaRounds : List Word → List Word → ShaState → ShaState
  | k :: ks, w :: ws, s => shaRounds ks ws (shaRound s k w)
  | _, _, s => s

/-- The word-wise sum of two hash values modulo 2^32 (R226). -/
def ShaState.add (s t : ShaState) : ShaState :=
  { a := s.a + t.a, b := s.b + t.b, c := s.c + t.c, d := s.d + t.d,
    e := s.e + t.e, f := s.f + t.f, g := s.g + t.g, h := s.h + t.h }

/-- The hash value after one more block (R226). -/
def shaBlock (hv : ShaState) (block : List Byte) : ShaState :=
  hv.add (shaRounds shaK (messageSchedule block) hv)

/-- The bytes of a hash value, `H[0]` first, each word most significant byte first (R226). -/
def ShaState.bytes (s : ShaState) : List Byte :=
  beBytes s.a ++ beBytes s.b ++ beBytes s.c ++ beBytes s.d ++ beBytes s.e ++ beBytes s.f ++ beBytes s.g ++ beBytes s.h

/-- `Sha256(m)` (R226). -/
def sha256 (m : List Byte) : List Byte :=
  ((blocksOf 64 (padSha m)).foldl shaBlock shaInit).bytes

/-! ### HMAC (R228) -/

/-- The 64-byte key `K0`: a key longer than 64 bytes is first replaced by its digest, and zeros fill it up (R228).
The CORE only meets 32-byte keys. -/
def hmacKey (k : List Byte) : List Byte :=
  let k' := if k.length > 64 then sha256 k else k
  k' ++ List.replicate (64 - k'.length) 0#8

/-- `K0` with every byte xored with `b`: `ipad` for 0x36, `opad` for 0x5c (R228). -/
def hmacPad (k : List Byte) (b : Byte) : List Byte :=
  (hmacKey k).map (fun x => x ^^^ b)

/-- `HmacSha256(K, m)` (R228). -/
def hmacSha256 (k m : List Byte) : List Byte :=
  sha256 (hmacPad k 0x5c#8 ++ sha256 (hmacPad k 0x36#8 ++ m))

end Sys2Proof.Machine
end

