-- ==== Sys2Proof/Machine/Mac.lean ====
section
/-! DEFINITION. The MAC Engine and comparator (44_mac.md R155, R156, R159), MAC (R157) and VERIFY (R158). -/

namespace Sys2Proof.Machine

/-- `Mac(K, d)`: the first 8 bytes of the digest (44_mac.md R155). -/
def mac (k d : List Byte) : List Byte :=
  (hmacSha256 k d).take 8

/-- `CtEq8(a, b)` for two 8-byte strings (44_mac.md R159): all bytes equal. -/
def ctEq8 (a b : List Byte) : Bool :=
  a == b

/-- The reference of `CtEq8` (44_mac.md R159): the exclusive-ors of all byte pairs gathered by or, 0 for equal
strings. The spec offers it as a reference; the comparison is defined by `ctEq8`. -/
def ctAccumulate : List Byte → List Byte → Byte → Byte
  | a :: as, b :: bs, acc => ctAccumulate as bs (acc ||| (a ^^^ b))
  | _, _, acc => acc

/-- `Verify(K, d, t, tl)` (44_mac.md R156): the length first, then the comparison. -/
def verify (k d t : List Byte) (tl : Word) : Bool :=
  if tl ≠ 8#32 then false else ctEq8 (mac k d) t

/-- The phases of a verification (44_mac.md R158, 45_envelope.md R170): none where the presented tag has not
length 8. -/
def verifyPhases (tl : Word) : List Phase :=
  if tl = 8#32 then [.mac, .cmp] else []

/-- What a verification leaves in WORK (10_state.md R42): the recomputed digest and tag, where they were
computed. -/
def Work.verified (work : Work) (k d : List Byte) (tl : Word) : Work :=
  if tl = 8#32 then { work with digest := hmacSha256 k d, tag := mac k d } else work

/-- `Body_MAC` (44_mac.md R157). -/
def bodyMac (mkl : Word) (k d : List Byte) : CommandRun :=
  match validateMac mkl with
  | some e => .raise e [.v] Work.empty
  | none =>
    .succeed { out := none, tag := some (fileOfBytes 8 (mac k d)), matched := false, wipe := false } [.v, .mac]
      { Work.empty with digest := hmacSha256 k d, tag := mac k d }

/-- `Body_VERIFY` (44_mac.md R158). -/
def bodyVerify (mkl : Word) (k t : List Byte) (tl : Word) (d : List Byte) : CommandRun :=
  match validateMac mkl with
  | some e => .raise e [.v] Work.empty
  | none => .succeed (.report (verify k d t tl)) ([.v] ++ verifyPhases tl) (Work.empty.verified k d tl)

/-- MAC (44_mac.md R157). -/
def execMac (s : State) : Host.Outcome State Fault Refusal :=
  s.completeOver .mac (bodyMac s.mkeyLen s.macKey)

/-- VERIFY (44_mac.md R158). -/
def execVerify (s : State) : Host.Outcome State Fault Refusal :=
  s.completeOver .verify (bodyVerify s.mkeyLen s.macKey s.tagBytes s.tagiLen)

end Sys2Proof.Machine
end

