-- ==== Sys2Proof/Machine/Envelope.lean ====
section
/-! DEFINITION. The Envelope Builder and Opener: the MAC input (45_envelope.md R165), the bodies of SEAL (R166) and
OPEN (R170, R171), and the six envelope commands (R167 to R169, R172 to R174). -/

namespace Sys2Proof.Machine

/-- `MacInput(scope, iv, ct, pt)` (45_envelope.md R165). -/
def macInput (scope : MacScope) (iv ct pt : List Byte) : List Byte :=
  match scope with
  | .ciphertextOnly   => ct
  | .ivThenCiphertext => iv ++ ct
  | .plaintextOnly    => pt

/-- The parameters of an envelope command but its message: the claimed lengths and the keys and IV (45_envelope.md,
operand binding). -/
structure EnvelopeParams where
  ckl : Word
  mkl : Word
  ivl : Word
  cipherKey : List Byte
  macKey : List Byte
  iv : List Byte
deriving DecidableEq, Repr

/-- The operand registers of an envelope command (45_envelope.md, operand binding). -/
def State.envelopeParams (s : State) : EnvelopeParams :=
  { ckl := s.ckeyLen, mkl := s.mkeyLen, ivl := s.ivLen,
    cipherKey := s.cipherKey, macKey := s.macKey, iv := s.ivBytes }

/-- The ciphertext of a plaintext: steps 2 and 3 of SEAL (45_envelope.md R166). -/
def sealedText (o : EnvelopeParams) (pt : List Byte) : List Byte :=
  cbcEnc o.cipherKey o.iv (pad pt)

/-- The tag of a plaintext under a scope: steps 4 and 5 of SEAL (45_envelope.md R166). -/
def sealedTag (scope : MacScope) (o : EnvelopeParams) (pt : List Byte) : List Byte :=
  mac o.macKey (macInput scope o.iv (sealedText o pt) pt)

/-- `Body_SEAL(scope)` (45_envelope.md R166). -/
def bodySeal (scope : MacScope) (o : EnvelopeParams) (pt : List Byte) : CommandRun :=
  match validate o.ckl o.mkl o.ivl with
  | some e => .raise e [.v] Work.empty
  | none =>
    let ct := sealedText o pt
    let tag := sealedTag scope o pt
    .succeed { out := some ct, tag := some (fileOfBytes 8 tag), matched := false, wipe := false }
      [.v, .pad, .enc, .mac]
      { Work.empty with
        keySchedule := keyScheduleBytes o.cipherKey
        padded := pad pt
        ciphertext := ct
        digest := hmacSha256 o.macKey (macInput scope o.iv ct pt)
        tag := tag }

/-- WORK with the decrypted buffer of an OPEN in it (10_state.md R42). -/
def Work.opened (work : Work) (o : EnvelopeParams) (ct : List Byte) : Work :=
  { work with keySchedule := keyScheduleBytes o.cipherKey, decrypted := cbcDec o.cipherKey o.iv ct }

/-- `Body_OPEN(scope)` for the scopes that verify before they decrypt (45_envelope.md R170); R171 is
`bodyOpenPlaintext`. -/
def bodyOpenVerifyFirst (scope : MacScope) (o : EnvelopeParams) (t : List Byte) (tl : Word) (ct : List Byte) :
    CommandRun :=
  match validate o.ckl o.mkl o.ivl with
  | some e => .raise e [.v] Work.empty
  | none =>
    let mi := macInput scope o.iv ct []
    let seen := [Phase.v] ++ verifyPhases tl
    let work := Work.empty.verified o.macKey mi tl
    if verify o.macKey mi t tl then
      if ct.length % 16 ≠ 0 then .raise .invalidInputLength seen work
      else
        match unpad (cbcDec o.cipherKey o.iv ct) with
        | none => .raise .authenticationFailure (seen ++ [.dec, .unpad]) (work.opened o ct)
        | some pt => .succeed (.output pt) (seen ++ [.dec, .unpad]) { work.opened o ct with recovered := pt }
    else .raise .authenticationFailure seen work

/-- `Body_OPEN(PlaintextOnly)`: decrypt, unpad, then verify (45_envelope.md R171). -/
def bodyOpenPlaintext (o : EnvelopeParams) (t : List Byte) (tl : Word) (ct : List Byte) : CommandRun :=
  match validate o.ckl o.mkl o.ivl with
  | some e => .raise e [.v] Work.empty
  | none =>
    if ct.length % 16 ≠ 0 then .raise .invalidInputLength [.v] Work.empty
    else
      let work := Work.empty.opened o ct
      match unpad (cbcDec o.cipherKey o.iv ct) with
      | none => .raise .authenticationFailure [.v, .dec, .unpad] work
      | some pt =>
        let seen := [Phase.v, .dec, .unpad] ++ verifyPhases tl
        let work' := ({ work with recovered := pt } : Work).verified o.macKey pt tl
        if verify o.macKey pt t tl then .succeed (.output pt) seen work'
        else .raise .authenticationFailure seen work'

/-- SEAL.CT (45_envelope.md R167). -/
def execSealCt (s : State) : Host.Outcome State Fault Refusal :=
  s.completeOver .sealCt (bodySeal .ciphertextOnly s.envelopeParams)

/-- SEAL.IVCT (45_envelope.md R168). -/
def execSealIvct (s : State) : Host.Outcome State Fault Refusal :=
  s.completeOver .sealIvct (bodySeal .ivThenCiphertext s.envelopeParams)

/-- SEAL.PT (45_envelope.md R169). -/
def execSealPt (s : State) : Host.Outcome State Fault Refusal :=
  s.completeOver .sealPt (bodySeal .plaintextOnly s.envelopeParams)

/-- OPEN.CT (45_envelope.md R172). -/
def execOpenCt (s : State) : Host.Outcome State Fault Refusal :=
  s.completeOver .openCt (bodyOpenVerifyFirst .ciphertextOnly s.envelopeParams s.tagBytes s.tagiLen)

/-- OPEN.IVCT (45_envelope.md R173). -/
def execOpenIvct (s : State) : Host.Outcome State Fault Refusal :=
  s.completeOver .openIvct (bodyOpenVerifyFirst .ivThenCiphertext s.envelopeParams s.tagBytes s.tagiLen)

/-- OPEN.PT (45_envelope.md R174). -/
def execOpenPt (s : State) : Host.Outcome State Fault Refusal :=
  s.completeOver .openPt (bodyOpenPlaintext s.envelopeParams s.tagBytes s.tagiLen)

end Sys2Proof.Machine
end

