-- ==== Sys2Proof/Machine/System.lean ====
section
/-! DEFINITION. WIPE (46_system.md R185) and the completion of an illegal command word (R186). -/

namespace Sys2Proof.Machine

/-- `Body_WIPE` (46_system.md R185): no phase, no error, the wipe bit. -/
def bodyWipe : CommandRun :=
  .succeed { out := none, tag := none, matched := false, wipe := true } [] Work.empty

/-- WIPE (46_system.md R185). It looks at no descriptor (40_lifecycle.md R116). -/
def execWipe (s : State) : Host.Outcome State Fault Refusal :=
  s.complete bodyWipe

/-- The completion of a word that is no command (46_system.md R186, 30_encoding.md R95). -/
def completeIllegal (s : State) : Host.Outcome State Fault Refusal :=
  .next (s.errorCompletion .illegalCommand)

end Sys2Proof.Machine
end

