-- ==== Sys2Proof/Machine/Dispatch.lean ====
section
/-! DEFINITION. The completion step of each command (40_lifecycle.md R113, R114), one arm per command. The issue of a
command is the host's write to CMD (R110, R111). -/

namespace Sys2Proof.Machine

def exec (i : Instr) (s : State) : Host.Outcome State Fault Refusal :=
  match i with
  | .validate => Sys2Proof.Machine.execValidate s
  | .pad => Sys2Proof.Machine.execPad s
  | .unpad => Sys2Proof.Machine.execUnpad s
  | .encrypt => Sys2Proof.Machine.execEncrypt s
  | .decrypt => Sys2Proof.Machine.execDecrypt s
  | .mac => Sys2Proof.Machine.execMac s
  | .verify => Sys2Proof.Machine.execVerify s
  | .sealCt => Sys2Proof.Machine.execSealCt s
  | .sealIvct => Sys2Proof.Machine.execSealIvct s
  | .sealPt => Sys2Proof.Machine.execSealPt s
  | .openCt => Sys2Proof.Machine.execOpenCt s
  | .openIvct => Sys2Proof.Machine.execOpenIvct s
  | .openPt => Sys2Proof.Machine.execOpenPt s
  | .wipe => Sys2Proof.Machine.execWipe s

end Sys2Proof.Machine
end

