-- ==== Sys2Proof/Machine/Sequencer.lean ====
section
/-! DEFINITION. The agents' steps: the sequencer's turn, which completes the command latched in LCMD (40_lifecycle.md
R114), and the step each entry of the agenda stands for (20_memory.md R75; log 1). -/

namespace Sys2Proof.Machine

/-- The completion step of the word in LCMD (40_lifecycle.md R113, R114): decode, then the command. -/
def State.completeLatched (s : State) : Host.Outcome State Fault Refusal :=
  match decode s.lcmd with
  | .error _ => completeIllegal s
  | .ok i    => exec i s

/-- The sequencer's turn: the completion step is enabled exactly while BUSY = 1 (40_lifecycle.md R122); with no
command in execution the CORE is idle and holds its registers (60_exceptions.md R260). -/
def State.sequencerTurn (s : State) : Host.Outcome State Fault Refusal :=
  if s.status.busy then s.completeLatched else .next s

/-- The step an entry of the agenda stands for. -/
def State.take (s : State) (e : Event) : Host.Outcome State Fault Refusal :=
  match e with
  | .read off size    => .next (s.hostRead off size)
  | .write off size v => .next (s.hostWrite off size v)
  | .sequencer        => s.sequencerTurn
  | .reset cells w    => .next (s.resetStep cells w)

/-- One step: the next entry of the agenda, or, where the host plans nothing more, the sequencer's turn. -/
def State.advance (s : State) : Host.Outcome State Fault Refusal :=
  match s.agenda with
  | []        => s.sequencerTurn
  | e :: rest => State.take { s with agenda := rest } e

/-- The state whose very next step completes the command word of `nbits` bits `w`: the word issued (40_lifecycle.md
R111), which is how the CORE gets a command, and the host planning nothing, so that the sequencer moves next
(log 11). -/
def State.latched (s : State) (nbits w : Nat) : State :=
  { s.issue (BitVec.ofNat 32 (w % 2 ^ nbits)) with agenda := [] }

end Sys2Proof.Machine
end

