-- ==== Sys2Proof/Machine/Step.lean ====
section
/-! DEFINITION. The step of the machine and the placing of a command for it. -/

namespace Sys2Proof.Machine

/-- One step of the total order of 20_memory.md R75. -/
def step (s : State) : Host.Outcome State Fault Refusal :=
  s.advance

/-- `s` with the command word of `nbits` bits `w` where the next step takes its command from: in LCMD, issued
(log 11). -/
def State.withFetchWord (s : State) (nbits w : Nat) : State :=
  s.latched nbits w

end Sys2Proof.Machine
end

