-- ==== Sys2Proof/Safety.lean ====
section
/-! DEFINITION. The terms claims are made in: what the host can see, when an access or an operand is in order, how a
command ends, and the invariants of the machine. Nothing here is used by the machine. -/

namespace Sys2Proof.Machine

/-! ### What the host can see -/

/-- The complete host-visible state (60_exceptions.md R253): every register of the map, every MEM byte, `irq`. -/
structure HostView where
  regs   : List Word
  window : List Byte
  irq    : Bool
deriving DecidableEq, Repr

/-- What the host can read of a state. -/
def State.hostView (s : State) : HostView :=
  { regs := regMap.map (fun entry => s.readReg entry.2)
    window := Memory.readN s.mem 0 s.memBytes
    irq := s.irq }

/-- Two states that differ at most in what no host transaction reads: the keys (20_memory.md R68), LCMD, WORK and
TRACE (10_state.md R41 to R43). -/
def SameButHidden (s t : State) : Prop :=
  t = { s with ckey := t.ckey, mkey := t.mkey, lcmd := t.lcmd, work := t.work, trace := t.trace }

/-! ### Accesses in order -/

/-- The mapped register offsets (20_memory.md R62). -/
abbrev MappedOffset (off : Nat) : Prop :=
  off % 4 = 0 ∧ (off ≤ 0x30 ∨ (0x40 ≤ off ∧ off ≤ 0x94) ∨ off = 0xA0 ∨ off = 0xA4)

/-- The accesses that are no bus error (20_memory.md R65, R66). -/
abbrev AccessInOrder (memBytes off size : Nat) : Prop :=
  (off < 0x1000 ∧ size = 4 ∧ MappedOffset off) ∨
  (0x1000 ≤ off ∧ (size = 1 ∨ size = 2 ∨ size = 4) ∧ off % size = 0 ∧ off + size ≤ 0x1000 + memBytes)

/-! ### Operands in order -/

/-- `SRC_ADDR + SRC_LEN <= MEM_BYTES` (40_lifecycle.md R116). -/
abbrev State.SourceInMem (s : State) : Prop :=
  s.srcAddr.toNat + s.srcLen.toNat ≤ s.memSize.toNat

/-- `DST_ADDR + n <= MEM_BYTES` (40_lifecycle.md R116). -/
abbrev State.RoomFor (s : State) (n : Nat) : Prop :=
  s.dstAddr.toNat + n ≤ s.memSize.toNat

/-- The input byte string of a command, `MemRead(SRC_ADDR, SRC_LEN)` (10_state.md R27). -/
def State.source (s : State) : List Byte :=
  Memory.readN s.mem s.srcAddr.toNat s.srcLen.toNat

/-- CKEY_LEN is 16 or 32 (00_scope.md R7). -/
abbrev State.CipherKeyOk (s : State) : Prop :=
  s.ckeyLen = 16#32 ∨ s.ckeyLen = 32#32

/-- Both key lengths are legal (00_scope.md R7). -/
abbrev State.KeysOk (s : State) : Prop :=
  s.CipherKeyOk ∧ s.mkeyLen = 32#32

/-- All three lengths `Validate` looks at are legal (41_validate.md R125). -/
abbrev State.LengthsOk (s : State) : Prop :=
  s.KeysOk ∧ s.ivLen = 16#32

/-- The state right after an issue, but for a write dropped since (40_lifecycle.md R111). -/
abbrev State.JustIssued (s : State) : Prop :=
  s.status = { busy := true, done := false, matched := false, lockErr := s.status.lockErr, err := none } ∧
  s.dstLen = 0#32 ∧ s.tago = Vector.replicate 8 0#8 ∧ s.trace = [] ∧ s.work = Work.empty

/-- The next step is the sequencer's turn (log 12): its entry stands next in the agenda, or nothing does. -/
abbrev State.SequencerMoves (s : State) : Prop :=
  s.agenda = [] ∨ s.agenda = .sequencer :: s.agenda.tail

/-- A word that is no command is in execution (46_system.md R186), whatever was written or dropped since its issue, and
the sequencer moves next. -/
abbrev State.IllegalTurn (s : State) : Prop :=
  s.status.busy = true ∧ (∀ i, s.lcmd ≠ encode i) ∧ s.SequencerMoves

/-! ### How a command ends -/

/-- The command ends with an error: STATUS and the two hidden records of the command change and nothing else
(60_exceptions.md R246). -/
def EndsWithError (i : Instr) (s : State) (e : ErrorKind) (phases : List Phase) : Prop :=
  ∃ w, exec i s = .next { s with
    status := { s.status with busy := false, done := true, err := some e }
    trace := s.trace ++ phases
    work := w }

/-- The command succeeds without output: MATCH is `m`, TAGO is `tag` (40_lifecycle.md R117). -/
def EndsReporting (i : Instr) (s : State) (m : Bool) (tag : Vector Byte 8) (phases : List Phase) : Prop :=
  ∃ w, exec i s = .next { s with
    status := { s.status with busy := false, done := true, matched := m, err := none }
    tago := tag
    trace := s.trace ++ phases
    work := w }

/-- `t` holds the byte string `out` from address `a` on, and every other address reads as in `s`. -/
def StoresAt (s t : State) (a : Nat) (out : List Byte) : Prop :=
  (∀ k, k < out.length → Memory.read t.mem (a + k) = out.getD k 0#8) ∧
  (∀ b, b < a ∨ a + out.length ≤ b → Memory.read t.mem b = Memory.read s.mem b)

/-- The command succeeds with the output byte string `out` at DST_ADDR, its length in DST_LEN, and TAGO at `tag`;
nothing else but STATUS and the hidden records changes (40_lifecycle.md R117, R118). -/
def EndsWithOutput (i : Instr) (s : State) (out : List Byte) (tag : Vector Byte 8) (phases : List Phase) : Prop :=
  ∃ t, exec i s = .next t ∧ StoresAt s t s.dstAddr.toNat out ∧ t.dstLen.toNat = out.length ∧
    t = { s with
      mem := t.mem
      dstLen := t.dstLen
      status := { s.status with busy := false, done := true, matched := false, err := none }
      tago := tag
      trace := s.trace ++ phases
      work := t.work }

/-- The SEAL command of a scope (30_encoding.md R92, R93). -/
def sealOf : MacScope → Instr
  | .ciphertextOnly   => .sealCt
  | .ivThenCiphertext => .sealIvct
  | .plaintextOnly    => .sealPt

/-- The OPEN command of a scope (30_encoding.md R92, R93). -/
def openOf : MacScope → Instr
  | .ciphertextOnly   => .openCt
  | .ivThenCiphertext => .openIvct
  | .plaintextOnly    => .openPt

/-- The phases of a successful OPEN of a scope (40_lifecycle.md R123). -/
def openPhases : MacScope → List Phase
  | .ciphertextOnly   => [.v, .mac, .cmp, .dec, .unpad]
  | .ivThenCiphertext => [.v, .mac, .cmp, .dec, .unpad]
  | .plaintextOnly    => [.v, .dec, .unpad, .mac, .cmp]

/-! ### What a command may read, and how it may end -/

/-- The length registers a command reads (10_state.md R29). -/
def lengthsRead (i : Instr) (s : State) : List Word :=
  match i with
  | .validate => [s.ckeyLen, s.mkeyLen, s.ivLen]
  | .pad      => []
  | .unpad    => []
  | .encrypt  => [s.ckeyLen, s.ivLen]
  | .decrypt  => [s.ckeyLen, s.ivLen]
  | .mac      => [s.mkeyLen]
  | .verify   => [s.mkeyLen, s.tagiLen]
  | .sealCt   => [s.ckeyLen, s.mkeyLen, s.ivLen]
  | .sealIvct => [s.ckeyLen, s.mkeyLen, s.ivLen]
  | .sealPt   => [s.ckeyLen, s.mkeyLen, s.ivLen]
  | .openCt   => [s.ckeyLen, s.mkeyLen, s.ivLen, s.tagiLen]
  | .openIvct => [s.ckeyLen, s.mkeyLen, s.ivLen, s.tagiLen]
  | .openPt   => [s.ckeyLen, s.mkeyLen, s.ivLen, s.tagiLen]
  | .wipe     => []

/-- The byte-register files a command reads (10_state.md R29); of CKEY the bytes CKEY_LEN names (R21). -/
def filesRead (i : Instr) (s : State) : List (List Byte) :=
  match i with
  | .validate => []
  | .pad      => []
  | .unpad    => []
  | .encrypt  => [s.cipherKey, s.ivBytes]
  | .decrypt  => [s.cipherKey, s.ivBytes]
  | .mac      => [s.macKey]
  | .verify   => [s.macKey, s.tagBytes]
  | .sealCt   => [s.cipherKey, s.macKey, s.ivBytes]
  | .sealIvct => [s.cipherKey, s.macKey, s.ivBytes]
  | .sealPt   => [s.cipherKey, s.macKey, s.ivBytes]
  | .openCt   => [s.cipherKey, s.macKey, s.ivBytes, s.tagBytes]
  | .openIvct => [s.cipherKey, s.macKey, s.ivBytes, s.tagBytes]
  | .openPt   => [s.cipherKey, s.macKey, s.ivBytes, s.tagBytes]
  | .wipe     => []

/-- The descriptors a command reads (10_state.md R29). -/
def descriptorsRead (i : Instr) (s : State) : List Word :=
  match i with
  | .validate => []
  | .mac      => [s.srcAddr, s.srcLen]
  | .verify   => [s.srcAddr, s.srcLen]
  | .wipe     => []
  | .pad      => [s.srcAddr, s.srcLen, s.dstAddr]
  | .unpad    => [s.srcAddr, s.srcLen, s.dstAddr]
  | .encrypt  => [s.srcAddr, s.srcLen, s.dstAddr]
  | .decrypt  => [s.srcAddr, s.srcLen, s.dstAddr]
  | .sealCt   => [s.srcAddr, s.srcLen, s.dstAddr]
  | .sealIvct => [s.srcAddr, s.srcLen, s.dstAddr]
  | .sealPt   => [s.srcAddr, s.srcLen, s.dstAddr]
  | .openCt   => [s.srcAddr, s.srcLen, s.dstAddr]
  | .openIvct => [s.srcAddr, s.srcLen, s.dstAddr]
  | .openPt   => [s.srcAddr, s.srcLen, s.dstAddr]

/-- The MEM bytes a command reads (10_state.md R29): the source region, where it has one inside MEM. -/
def sourceRead (i : Instr) (s : State) : List Byte :=
  if usesSource i ∧ s.SourceInMem then s.source else []

/-- Two states agree on everything the command reads (10_state.md R29). -/
def SameOperands (i : Instr) (s t : State) : Prop :=
  s.memSize = t.memSize ∧ lengthsRead i s = lengthsRead i t ∧ filesRead i s = filesRead i t ∧
  descriptorsRead i s = descriptorsRead i t ∧ sourceRead i s = sourceRead i t

/-- The error kinds a command can end with (60_exceptions.md R241). -/
def errorsOf : Instr → List ErrorKind
  | .validate => [.invalidKeyLength, .invalidIVLength]
  | .pad      => [.addressError]
  | .unpad    => [.paddingError, .addressError]
  | .encrypt  => [.invalidKeyLength, .invalidIVLength, .invalidInputLength, .addressError]
  | .decrypt  => [.invalidKeyLength, .invalidIVLength, .invalidInputLength, .addressError]
  | .mac      => [.invalidKeyLength, .addressError]
  | .verify   => [.invalidKeyLength, .addressError]
  | .sealCt   => [.invalidKeyLength, .invalidIVLength, .addressError]
  | .sealIvct => [.invalidKeyLength, .invalidIVLength, .addressError]
  | .sealPt   => [.invalidKeyLength, .invalidIVLength, .addressError]
  | .openCt   => [.invalidKeyLength, .invalidIVLength, .invalidInputLength, .authenticationFailure, .addressError]
  | .openIvct => [.invalidKeyLength, .invalidIVLength, .invalidInputLength, .authenticationFailure, .addressError]
  | .openPt   => [.invalidKeyLength, .invalidIVLength, .invalidInputLength, .authenticationFailure, .addressError]
  | .wipe     => []

/-- One way a command can end: its error, `none` for success, and the phases it went through. -/
abbrev Ending := Option ErrorKind × List Phase

/-- The endings of OPEN.CT and OPEN.IVCT (40_lifecycle.md R123), with or without a presented tag of length 8. -/
def verifyFirstEndings (tagOfLength8 : Bool) : List Ending :=
  [(some .addressError, []), (some .invalidKeyLength, [.v]), (some .invalidIVLength, [.v])] ++
  (if tagOfLength8 then
    [(some .authenticationFailure, [.v, .mac, .cmp]), (some .invalidInputLength, [.v, .mac, .cmp]),
     (some .authenticationFailure, [.v, .mac, .cmp, .dec, .unpad]), (none, [.v, .mac, .cmp, .dec, .unpad])]
   else [(some .authenticationFailure, [.v])])

/-- The endings of OPEN.PT (40_lifecycle.md R123). -/
def plaintextEndings (tagOfLength8 : Bool) : List Ending :=
  [(some .addressError, []), (some .invalidKeyLength, [.v]), (some .invalidIVLength, [.v]),
   (some .invalidInputLength, [.v]), (some .authenticationFailure, [.v, .dec, .unpad])] ++
  (if tagOfLength8 then
    [(some .authenticationFailure, [.v, .dec, .unpad, .mac, .cmp]), (none, [.v, .dec, .unpad, .mac, .cmp])]
   else [])

/-- The endings of each command (40_lifecycle.md R123). -/
def endingsOf (i : Instr) (tagOfLength8 : Bool) : List Ending :=
  match i with
  | .validate => [(none, [.v]), (some .invalidKeyLength, [.v]), (some .invalidIVLength, [.v])]
  | .pad      => [(some .addressError, []), (none, [.pad])]
  | .unpad    => [(some .addressError, []), (none, [.unpad]), (some .paddingError, [.unpad])]
  | .encrypt  => [(some .addressError, []), (some .invalidKeyLength, [.v]), (some .invalidIVLength, [.v]),
                  (some .invalidInputLength, [.v]), (none, [.v, .enc])]
  | .decrypt  => [(some .addressError, []), (some .invalidKeyLength, [.v]), (some .invalidIVLength, [.v]),
                  (some .invalidInputLength, [.v]), (none, [.v, .dec])]
  | .mac      => [(some .addressError, []), (some .invalidKeyLength, [.v]), (none, [.v, .mac])]
  | .verify   => [(some .addressError, []), (some .invalidKeyLength, [.v]),
                  (none, if tagOfLength8 then [.v, .mac, .cmp] else [.v])]
  | .sealCt   => [(some .addressError, []), (some .invalidKeyLength, [.v]), (some .invalidIVLength, [.v]),
                  (none, [.v, .pad, .enc, .mac])]
  | .sealIvct => [(some .addressError, []), (some .invalidKeyLength, [.v]), (some .invalidIVLength, [.v]),
                  (none, [.v, .pad, .enc, .mac])]
  | .sealPt   => [(some .addressError, []), (some .invalidKeyLength, [.v]), (some .invalidIVLength, [.v]),
                  (none, [.v, .pad, .enc, .mac])]
  | .openCt   => verifyFirstEndings tagOfLength8
  | .openIvct => verifyFirstEndings tagOfLength8
  | .openPt   => plaintextEndings tagOfLength8
  | .wipe     => [(none, [])]

/-- The entry is a reset. -/
def Event.isReset : Event → Bool
  | .read _ _    => false
  | .write _ _ _ => false
  | .sequencer   => false
  | .reset _ _   => true

/-! ### Invariants -/

/-- While a command runs the host reads the cleared values (20_memory.md R71) and DONE is 0 (10_state.md R37). That TRACE
and WORK are empty too is the model's: a command fills both in its one completion step (40_lifecycle.md R111, R113, R114;
logs 8 and 13), where 10_state.md R20 has them written while BUSY is 1. -/
abbrev State.BusyIsClean (s : State) : Prop :=
  s.status.busy = true → s.JustIssued

/-- After an error there is no result (60_exceptions.md R246). -/
abbrev State.ErrorIsClean (s : State) : Prop :=
  s.status.err ≠ none → s.status.matched = false ∧ s.dstLen = 0#32 ∧ s.tago = Vector.replicate 8 0#8

/-- MATCH is the result of a VERIFY, which leaves no other result and no error (10_state.md R38, 44_mac.md R158). -/
abbrev State.MatchIsClean (s : State) : Prop :=
  s.status.matched = true → s.status.err = none ∧ s.dstLen = 0#32 ∧ s.tago = Vector.replicate 8 0#8

/-- The invariant of the machine: MEM_BYTES is legal (00_scope.md R8), MEM is canonical and inside MEM_BYTES, the
last output was inside MEM (10_state.md R28), and the flags and results agree. -/
def State.Inv (s : State) : Prop :=
  Config.legalMemBytes s.memBytes = true ∧ Memory.wf s.mem ∧ Memory.within s.memBytes s.mem ∧
  s.dstLen.toNat ≤ s.memBytes ∧ s.BusyIsClean ∧ s.ErrorIsClean ∧ s.MatchIsClean

end Sys2Proof.Machine
end

