-- ==== Sys2Proof/Certificates/Slice0/Obligations.lean ====
section
/-! DEFINITION. The statements about the model, for the provers. Each docstring names what of spec/ it formalises; the
list with the cites is OBLIGATIONS.json. -/

open Sys2Proof Sys2Proof.Machine

/-! ### Encoding -/

/-- 30_encoding.md R92, R94: the fourteen words, and every word is exactly one row or illegal. -/
def Obligations.EveryWordIsOneCommandOrIllegal : Prop :=
  (encode .validate = 0x00000001#32 ∧ encode .pad = 0x00000002#32 ∧ encode .unpad = 0x00000003#32 ∧
   encode .encrypt = 0x00000004#32 ∧ encode .decrypt = 0x00000005#32 ∧ encode .mac = 0x00000006#32 ∧
   encode .verify = 0x00000007#32 ∧ encode .sealCt = 0x00000008#32 ∧ encode .sealIvct = 0x00000018#32 ∧
   encode .sealPt = 0x00000028#32 ∧ encode .openCt = 0x00000009#32 ∧ encode .openIvct = 0x00000019#32 ∧
   encode .openPt = 0x00000029#32 ∧ encode .wipe = 0x0000000A#32) ∧
  ∀ (w : Word) (i : Instr), decode w = .ok i ↔ w = encode i

/-- 30_encoding.md R92, R95: words written out bit by bit, and words that are no command. -/
def Obligations.WrittenOutWordsDecode : Prop :=
  decode 0b00000000000000000000000000000010#32 = .ok .pad ∧
  decode 0b00000000000000000000000000000110#32 = .ok .mac ∧
  decode 0b00000000000000000000000000011000#32 = .ok .sealIvct ∧
  decode 0b00000000000000000000000000101001#32 = .ok .openPt ∧
  decode 0b00000000000000000000000000001010#32 = .ok .wipe ∧
  decode 0x00000000#32 = .error .opUndefined ∧
  decode 0x00000038#32 = .error .scopeReserved ∧
  decode 0x00000011#32 = .error .scopeNotTaken ∧
  decode 0x80000008#32 = .error .reservedBits

/-- 30_encoding.md R90, R93, R95: the fields of a word are well-formed exactly where the word is a command. -/
def Obligations.WellFormedFieldsAreTheCommands : Prop :=
  ∀ w : Word, (fieldsOf w).wellFormed = true ↔ ∃ i, decode w = .ok i

/-- 30_encoding.md R95, 46_system.md R186: a word that is no command completes with IllegalCommand and writes
nothing but what every issue writes. The second clause is the completion step of such a word at any later moment: after
dropped writes, whose LOCKERR stays, and with more of the agenda to come. -/
def Obligations.IllegalWordCompletesWithError : Prop :=
  (∀ (s : State) (w : Word), (∀ i, w ≠ encode i) → s.agenda = [] →
    step (s.issue w) = .next { s.issue w with
      status := { busy := false, done := true, matched := false, lockErr := false, err := some .illegalCommand } }) ∧
  (∀ s : State, s.status.busy = true → (∀ i, s.lcmd ≠ encode i) →
    (s.agenda = [] → step s = .next { s with
      status := { s.status with busy := false, done := true, err := some .illegalCommand } }) ∧
    (∀ rest, s.agenda = .sequencer :: rest → step s = .next { s with
      agenda := rest
      status := { s.status with busy := false, done := true, err := some .illegalCommand } })) ∧
  ({ busy := false, done := true, matched := false, lockErr := false, err := some .illegalCommand } :
    Status).toWord = 0x00000602#32 ∧
  ({ busy := false, done := true, matched := false, lockErr := true, err := some .illegalCommand } :
    Status).toWord = 0x0000060A#32

/-! ### The step -/

/-- 40_lifecycle.md R113, R114: the sequencer's turn at a busy state runs the command latched in LCMD. -/
def Obligations.StepRunsTheLatchedCommand : Prop :=
  ∀ (s : State) (i : Instr), s.status.busy = true → decode s.lcmd = .ok i →
    (s.agenda = [] → step s = exec i s) ∧
    (∀ rest, s.agenda = .sequencer :: rest → step s = exec i { s with agenda := rest })

/-- 20_memory.md R75, 60_exceptions.md R260: what the other steps are. -/
def Obligations.StepTakesTheNextEntry : Prop :=
  ∀ (s : State) (rest : List Event),
    (∀ off size, s.agenda = .read off size :: rest →
      step s = .next (State.hostRead { s with agenda := rest } off size)) ∧
    (∀ off size v, s.agenda = .write off size v :: rest →
      step s = .next (State.hostWrite { s with agenda := rest } off size v)) ∧
    (∀ cells w, s.agenda = .reset cells w :: rest →
      step s = .next (State.resetStep { s with agenda := rest } cells w)) ∧
    (s.status.busy = false → s.agenda = .sequencer :: rest → step s = .next { s with agenda := rest }) ∧
    (s.status.busy = false → s.agenda = [] → step s = .next s)

/-- 93_implementation_defined.md, opening: the CORE has no stuck behaviour. In particular the address check keeps
every sequencer access inside MEM. -/
def Obligations.EveryStepAnswersNext : Prop :=
  ∀ s : State, ∃ t, step s = .next t

/-- 40_lifecycle.md R114, R122: an issued command completes after finitely many steps, here at most one more than
the host has planned, unless the host resets. -/
def Obligations.IssuedCommandCompletes : Prop :=
  ∀ s : State, s.status.busy = true → (∀ e ∈ s.agenda, e.isReset = false) →
    ∃ k t, k ≤ s.agenda.length + 1 ∧ Host.Core.run Sys2Proof.core k s = .next t ∧
      t.status.busy = false ∧ t.status.done = true

/-- 10_state.md R28, R34, R37 to R39, 20_memory.md R71, 40_lifecycle.md R111, R113, R114, 60_exceptions.md R246: the
invariant of the machine holds after every step that starts in it, and no step changes MEM_BYTES. Its clause that TRACE
and WORK are empty while BUSY is 1 is the model's choice (logs 8 and 13): 10_state.md R20 has both written during BUSY,
and the model fills them in the completion step. -/
def Obligations.EveryStepKeepsTheInvariant : Prop :=
  ∀ s t : State, s.Inv → step s = .next t → t.Inv ∧ t.memSize = s.memSize

/-- 10_state.md R45: the invariant holds after reset. It rests on the model's choice of MEM at reset (log 2). -/
def Obligations.ResetSatisfiesTheInvariant : Prop :=
  State.reset.Inv

/-! ### Issue and completion -/

/-- 40_lifecycle.md R110, R111: a CMD write while BUSY = 0 issues any word, and what issue writes. -/
def Obligations.CommandWriteIssues : Prop :=
  ∀ (s : State) (w : Word) (rest : List Event), s.agenda = .write 0x04 4 w :: rest →
    (s.status.busy = false → step s = .next { s with
      agenda := rest
      resp := .ok
      lcmd := w
      status := { busy := true, done := false, matched := false, lockErr := false, err := none }
      dstLen := 0#32
      tago := Vector.replicate 8 0#8
      trace := []
      work := Work.empty }) ∧
    (s.status.busy = true → step s = .next { s with
      agenda := rest, resp := .ok, status := { s.status with lockErr := true } })

/-- 60_exceptions.md R246: an error completion writes STATUS.ERR, BUSY and DONE, nothing else; after an issue
MATCH, DST_LEN and TAGO are then 0; `irq` rises if IE is set. -/
def Obligations.ErrorCompletionWritesOnlyStatus : Prop :=
  (∀ (i : Instr) (s t : State) (e : ErrorKind), exec i s = .next t → t.status.err = some e →
    t = { s with
      status := { s.status with busy := false, done := true, err := some e }
      trace := t.trace
      work := t.work } ∧
    t.irq = s.ctrl.ie ∧
    (s.JustIssued → t.status.matched = false ∧ t.dstLen = 0#32 ∧ t.tago = Vector.replicate 8 0#8)) ∧
  ∀ s : State, s.IllegalTurn → ∃ t, step s = .next t ∧
    t = { s with
      agenda := s.agenda.tail
      status := { s.status with busy := false, done := true, err := some .illegalCommand } } ∧
    t.irq = s.ctrl.ie ∧
    (s.JustIssued → t.status.matched = false ∧ t.dstLen = 0#32 ∧ t.tago = Vector.replicate 8 0#8)

/-- 40_lifecycle.md R118: no command but WIPE changes an input register, and MEM changes only inside the committed
destination region. -/
def Obligations.CommandsKeepTheirInputs : Prop :=
  ∀ (i : Instr) (s t : State), i ≠ .wipe → exec i s = .next t →
    t.ckey = s.ckey ∧ t.mkey = s.mkey ∧ t.iv = s.iv ∧ t.tagi = s.tagi ∧
    t.ckeyLen = s.ckeyLen ∧ t.mkeyLen = s.mkeyLen ∧ t.ivLen = s.ivLen ∧ t.tagiLen = s.tagiLen ∧
    t.srcAddr = s.srcAddr ∧ t.srcLen = s.srcLen ∧ t.dstAddr = s.dstAddr ∧ t.ctrl = s.ctrl ∧
    t.memSize = s.memSize ∧ t.lcmd = s.lcmd ∧ t.resp = s.resp ∧ t.agenda = s.agenda ∧
    (∀ a, a < s.dstAddr.toNat ∨ s.dstAddr.toNat + t.dstLen.toNat ≤ a →
      Memory.read t.mem a = Memory.read s.mem a) ∧
    (outMax i s.srcLen.toNat = none → t.mem = s.mem)

/-- 40_lifecycle.md R120: the outcome of a command depends only on what 10_state.md R29 lists as read by it. -/
def Obligations.OutcomeDependsOnOperandsOnly : Prop :=
  ∀ (i : Instr) (s1 s2 : State), s1.JustIssued → s2.JustIssued → SameOperands i s1 s2 →
    ∃ t1 t2, exec i s1 = .next t1 ∧ exec i s2 = .next t2 ∧
      t1.status.err = t2.status.err ∧ t1.status.matched = t2.status.matched ∧ t1.tago = t2.tago ∧
      t1.dstLen = t2.dstLen ∧ t1.trace = t2.trace ∧
      (∀ k, k < t1.dstLen.toNat →
        Memory.read t1.mem (s1.dstAddr.toNat + k) = Memory.read t2.mem (s2.dstAddr.toNat + k))

/-- 40_lifecycle.md R115, R116: the address check, with exact sums, fails a command exactly where a region leaves
MEM, before anything else is looked at. -/
def Obligations.AddressErrorExactlyOutsideMem : Prop :=
  (∀ n, outMax .pad n = some (16 * (n / 16 + 1)) ∧ outMax .sealCt n = some (16 * (n / 16 + 1)) ∧
    outMax .sealIvct n = some (16 * (n / 16 + 1)) ∧ outMax .sealPt n = some (16 * (n / 16 + 1)) ∧
    outMax .encrypt n = some n ∧ outMax .decrypt n = some n ∧ outMax .unpad n = some n ∧
    outMax .openCt n = some n ∧ outMax .openIvct n = some n ∧ outMax .openPt n = some n ∧
    outMax .validate n = none ∧ outMax .mac n = none ∧ outMax .verify n = none ∧ outMax .wipe n = none) ∧
  (∀ i : Instr, usesSource i = true ↔ i ≠ .validate ∧ i ≠ .wipe) ∧
  ∀ (i : Instr) (s : State),
    ((usesSource i = true ∧ ¬ s.SourceInMem) ∨ (∃ n, outMax i s.srcLen.toNat = some n ∧ ¬ s.RoomFor n) →
      exec i s = .next { s with status := { s.status with busy := false, done := true, err := some .addressError } }) ∧
    ((usesSource i = true → s.SourceInMem) → (∀ n, outMax i s.srcLen.toNat = some n → s.RoomFor n) →
      ∀ t, exec i s = .next t → t.status.err ≠ some .addressError)

/-- 60_exceptions.md R241: which command can complete with which code, and that each marked one is possible. -/
def Obligations.PossibleErrorsOfEachCommand : Prop :=
  (∀ (i : Instr) (e : ErrorKind), e ∈ errorsOf i ↔ ∃ s t, exec i s = .next t ∧ t.status.err = some e) ∧
  ∀ s : State, s.IllegalTurn → ∃ t, step s = .next t ∧ t.status.err = some .illegalCommand

/-- 40_lifecycle.md R114, 10_state.md R46, 60_exceptions.md R250, R251: every completion clears BUSY, sets DONE, leaves
LOCKERR as it is and raises `irq` where it is enabled; `irq` is DONE and IE in every state, and an issue, the
acknowledgement of DONE, the clearing of IE and a reset lower it. -/
def Obligations.CompletionSetsDoneAndRaisesIrq : Prop :=
  (∀ (i : Instr) (s t : State), exec i s = .next t →
    t.status.busy = false ∧ t.status.done = true ∧ t.status.lockErr = s.status.lockErr ∧ t.irq = s.ctrl.ie) ∧
  (∀ s : State, s.irq = true ↔ s.status.done = true ∧ s.ctrl.ie = true) ∧
  ∀ (s : State) (v : Word) (rest : List Event),
    (s.status.busy = false → s.agenda = .write 0x04 4 v :: rest → ∃ t, step s = .next t ∧ t.irq = false) ∧
    (s.status.busy = false → s.agenda = .write 0x08 4 v :: rest →
      ∃ t, step s = .next t ∧ t.irq = (s.irq && !v.getLsbD 1)) ∧
    (s.status.busy = false → s.agenda = .write 0x0C 4 v :: rest →
      ∃ t, step s = .next t ∧ t.irq = (s.status.done && v.getLsbD 0)) ∧
    (∀ cells, s.agenda = .reset cells v :: rest → ∃ t, step s = .next t ∧ t.irq = false)

/-- 40_lifecycle.md R123: every completion has one of the endings of the table, with its TRACE. -/
def Obligations.PhasesFollowTheTable : Prop :=
  (∀ (i : Instr) (s t : State), exec i s = .next t →
    ∃ ending ∈ endingsOf i (s.tagiLen == 8#32), t.status.err = ending.1 ∧ t.trace = s.trace ++ ending.2) ∧
  ∀ s : State, s.IllegalTurn → ∃ t, step s = .next t ∧ t.trace = s.trace ∧ (s.JustIssued → t.trace = [])

/-- 40_lifecycle.md R123 (2), 45_envelope.md R170: under the two verify-first scopes the tag has verified, and MAC
and CMP have run, before anything is decrypted. -/
def Obligations.VerifiedBeforeDecrypted : Prop :=
  ∀ (scope : MacScope) (s t : State), scope ≠ .plaintextOnly → s.trace = [] → exec (openOf scope) s = .next t →
    Phase.dec ∈ t.trace →
      s.tagiLen = 8#32 ∧ mac s.macKey (macInput scope s.ivBytes s.source []) = s.tagBytes ∧
      ∃ rest, t.trace = [.v, .mac, .cmp, .dec] ++ rest

/-! ### The host interface -/

/-- 20_memory.md R65, R66, 60_exceptions.md R252: an access out of order gets a bus error and changes nothing, busy
or not. -/
def Obligations.BusErrorsChangeNothing : Prop :=
  ∀ (s : State) (off size : Nat) (v : Word) (rest : List Event), ¬ AccessInOrder s.memSize.toNat off size →
    (s.agenda = .read off size :: rest → step s = .next { s with agenda := rest, resp := .busError }) ∧
    (s.agenda = .write off size v :: rest → step s = .next { s with agenda := rest, resp := .busError })

/-- 20_memory.md R67, R71: a read in order, busy or not, is answered with a value and changes nothing. -/
def Obligations.ReadsHaveNoSideEffect : Prop :=
  ∀ (s : State) (off size : Nat) (rest : List Event), s.agenda = .read off size :: rest →
    AccessInOrder s.memSize.toNat off size → ∃ v, step s = .next { s with agenda := rest, resp := .data v }

/-- 20_memory.md R70: a write in order while BUSY = 1 is dropped and sets LOCKERR. -/
def Obligations.WritesWhileBusyAreDropped : Prop :=
  ∀ (s : State) (off size : Nat) (v : Word) (rest : List Event), s.agenda = .write off size v :: rest →
    AccessInOrder s.memSize.toNat off size → s.status.busy = true →
    step s = .next { s with agenda := rest, resp := .ok, status := { s.status with lockErr := true } }

/-- 20_memory.md R69: a write to a read-only register while BUSY = 0 is accepted and changes nothing. -/
def Obligations.ReadOnlyRegistersIgnoreWrites : Prop :=
  ∀ (s : State) (off : Nat) (v : Word) (rest : List Event),
    off ∈ [0x00, 0x1C, 0x30, 0xA0, 0xA4] → s.status.busy = false → s.agenda = .write off 4 v :: rest →
    step s = .next { s with agenda := rest, resp := .ok }

/-- 20_memory.md R62, R68, 10_state.md R30, R34: what a read of each register answers, busy or not; key words and CMD
read 0. -/
def Obligations.RegisterReadsAnswer : Prop :=
  ∀ (s : State) (off : Nat) (rest : List Event), s.agenda = .read off 4 :: rest →
    ∀ v : Word, (off, v) ∈ [(0x00, 0x43424331#32), (0x04, 0#32), (0x08, s.status.toWord), (0x0C, s.ctrl.toWord),
      (0x10, s.srcAddr), (0x14, s.srcLen), (0x18, s.dstAddr), (0x1C, s.dstLen), (0x20, s.ckeyLen),
      (0x24, s.mkeyLen), (0x28, s.ivLen), (0x2C, s.tagiLen), (0x30, s.memSize)] ∨
      (0x40 ≤ off ∧ off < 0x80 ∧ off % 4 = 0 ∧ v = 0#32) ∨
      (∃ k, k < 4 ∧ off = 0x80 + 4 * k ∧ v = fileWord s.iv k) ∨
      (∃ k, k < 2 ∧ off = 0x90 + 4 * k ∧ v = fileWord s.tagi k) ∨
      (∃ k, k < 2 ∧ off = 0xA0 + 4 * k ∧ v = fileWord s.tago k) →
    step s = .next { s with agenda := rest, resp := .data v }

/-- 10_state.md R41 to R43, 20_memory.md R68: no host transaction tells two states apart that differ only in keys,
LCMD, WORK and TRACE. -/
def Obligations.HostNeverSeesHiddenState : Prop :=
  ∀ (s1 s2 t1 t2 : State) (e : Event), SameButHidden s1 s2 → s1.agenda = e :: s1.agenda.tail →
    e ≠ .sequencer → e.isReset = false → step s1 = .next t1 → step s2 = .next t2 → SameButHidden t1 t2

/-- 20_memory.md R63: a word written to a byte-register file lands little-endian in its four bytes, and no other
byte of the state changes; a word read from a file the host may read holds its four bytes little-endian. -/
def Obligations.RegisterWordsAreLittleEndian : Prop :=
  ∀ (s : State) (v : Word) (k : Nat) (rest : List Event), s.status.busy = false →
    (k < 8 → s.agenda = .write (0x40 + 4 * k) 4 v :: rest → ∃ f : Vector Byte 32,
      step s = .next { s with agenda := rest, resp := .ok, ckey := f } ∧
      ∀ (j : Nat) (h : j < 32), f[j] = if j / 4 = k then v.extractLsb' (8 * (j % 4)) 8 else s.ckey[j]) ∧
    (k < 8 → s.agenda = .write (0x60 + 4 * k) 4 v :: rest → ∃ f : Vector Byte 32,
      step s = .next { s with agenda := rest, resp := .ok, mkey := f } ∧
      ∀ (j : Nat) (h : j < 32), f[j] = if j / 4 = k then v.extractLsb' (8 * (j % 4)) 8 else s.mkey[j]) ∧
    (k < 4 → s.agenda = .write (0x80 + 4 * k) 4 v :: rest → ∃ f : Vector Byte 16,
      step s = .next { s with agenda := rest, resp := .ok, iv := f } ∧ fileWord f k = v ∧
      ∀ (j : Nat) (h : j < 16), f[j] = if j / 4 = k then v.extractLsb' (8 * (j % 4)) 8 else s.iv[j]) ∧
    (k < 2 → s.agenda = .write (0x90 + 4 * k) 4 v :: rest → ∃ f : Vector Byte 8,
      step s = .next { s with agenda := rest, resp := .ok, tagi := f } ∧ fileWord f k = v ∧
      ∀ (j : Nat) (h : j < 8), f[j] = if j / 4 = k then v.extractLsb' (8 * (j % 4)) 8 else s.tagi[j]) ∧
    (k < 4 → s.agenda = .read (0x80 + 4 * k) 4 :: rest → ∃ x : Word,
      step s = .next { s with agenda := rest, resp := .data x } ∧
      ∀ j, j < 4 → x.extractLsb' (8 * j) 8 = s.iv.toList.getD (4 * k + j) 0#8) ∧
    (k < 2 → s.agenda = .read (0x90 + 4 * k) 4 :: rest → ∃ x : Word,
      step s = .next { s with agenda := rest, resp := .data x } ∧
      ∀ j, j < 4 → x.extractLsb' (8 * j) 8 = s.tagi.toList.getD (4 * k + j) 0#8) ∧
    (k < 2 → s.agenda = .read (0xA0 + 4 * k) 4 :: rest → ∃ x : Word,
      step s = .next { s with agenda := rest, resp := .data x } ∧
      ∀ j, j < 4 → x.extractLsb' (8 * j) 8 = s.tago.toList.getD (4 * k + j) 0#8)

/-- 10_state.md R26, R27, R35: the length and descriptor registers store whatever the host writes. -/
def Obligations.LengthAndDescriptorRegistersStoreAnyValue : Prop :=
  ∀ (s : State) (off : Nat) (v : Word) (rest : List Event), s.status.busy = false →
    s.agenda = .write off 4 v :: rest →
    (off = 0x10 → step s = .next { s with agenda := rest, resp := .ok, srcAddr := v }) ∧
    (off = 0x14 → step s = .next { s with agenda := rest, resp := .ok, srcLen := v }) ∧
    (off = 0x18 → step s = .next { s with agenda := rest, resp := .ok, dstAddr := v }) ∧
    (off = 0x20 → step s = .next { s with agenda := rest, resp := .ok, ckeyLen := v }) ∧
    (off = 0x24 → step s = .next { s with agenda := rest, resp := .ok, mkeyLen := v }) ∧
    (off = 0x28 → step s = .next { s with agenda := rest, resp := .ok, ivLen := v }) ∧
    (off = 0x2C → step s = .next { s with agenda := rest, resp := .ok, tagiLen := v })

/-- 10_state.md R32: the layout of STATUS, and what a write to it clears while BUSY = 0. -/
def Obligations.StatusLayoutAndWriteOneToClear : Prop :=
  (∀ st : Status,
    st.toWord.getLsbD 0 = st.busy ∧ st.toWord.getLsbD 1 = st.done ∧ st.toWord.getLsbD 2 = st.matched ∧
    st.toWord.getLsbD 3 = st.lockErr ∧ st.toWord.extractLsb' 4 4 = 0#4 ∧ st.toWord.extractLsb' 12 20 = 0#20 ∧
    (st.err = none → st.toWord.extractLsb' 8 4 = 0#4) ∧
    (st.err = some .invalidKeyLength → st.toWord.extractLsb' 8 4 = 1#4) ∧
    (st.err = some .invalidIVLength → st.toWord.extractLsb' 8 4 = 2#4) ∧
    (st.err = some .invalidInputLength → st.toWord.extractLsb' 8 4 = 3#4) ∧
    (st.err = some .paddingError → st.toWord.extractLsb' 8 4 = 4#4) ∧
    (st.err = some .authenticationFailure → st.toWord.extractLsb' 8 4 = 5#4) ∧
    (st.err = some .illegalCommand → st.toWord.extractLsb' 8 4 = 6#4) ∧
    (st.err = some .addressError → st.toWord.extractLsb' 8 4 = 7#4)) ∧
  ∀ (s : State) (v : Word) (rest : List Event), s.status.busy = false → s.agenda = .write 0x08 4 v :: rest →
    step s = .next { s with
      agenda := rest
      resp := .ok
      status := { s.status with
        done := if v.getLsbD 1 then false else s.status.done
        lockErr := if v.getLsbD 3 then false else s.status.lockErr } }

/-- 10_state.md R33: CTRL keeps bit 0 alone, its other bits read 0, and no command changes it. -/
def Obligations.CtrlKeepsOnlyItsEnableBit : Prop :=
  (∀ (s : State) (v : Word) (rest : List Event), s.status.busy = false → s.agenda = .write 0x0C 4 v :: rest →
    step s = .next { s with agenda := rest, resp := .ok, ctrl := { ie := v.getLsbD 0 } }) ∧
  (∀ c : Ctrl, c.toWord = if c.ie then 1#32 else 0#32) ∧
  ∀ (i : Instr) (s t : State), exec i s = .next t → t.ctrl = s.ctrl

/-- 20_memory.md R64: the MEM window, little-endian over consecutive bytes, for every width. -/
def Obligations.WindowIsLittleEndian : Prop :=
  ∀ (s : State) (a size : Nat) (v : Word) (rest : List Event), size = 1 ∨ size = 2 ∨ size = 4 → a % size = 0 →
    a + size ≤ s.memSize.toNat →
    (s.status.busy = false → s.agenda = .write (0x1000 + a) size v :: rest → ∃ m,
      step s = .next { s with agenda := rest, resp := .ok, mem := m } ∧
      (∀ k, k < size → Memory.read m (a + k) = v.extractLsb' (8 * k) 8) ∧
      (∀ b, b < a ∨ a + size ≤ b → Memory.read m b = Memory.read s.mem b)) ∧
    (s.agenda = .read (0x1000 + a) size :: rest → ∃ x : Word,
      step s = .next { s with agenda := rest, resp := .data x } ∧
      (size = 1 → x.toNat = (Memory.read s.mem a).toNat) ∧
      (size = 2 → x.toNat = (Memory.read s.mem a).toNat + 2 ^ 8 * (Memory.read s.mem (a + 1)).toNat) ∧
      (size = 4 → x.toNat = (Memory.read s.mem a).toNat + 2 ^ 8 * (Memory.read s.mem (a + 1)).toNat +
        2 ^ 16 * (Memory.read s.mem (a + 2)).toNat + 2 ^ 24 * (Memory.read s.mem (a + 3)).toNat))

/-- 70_reset_and_hazards.md R280 to R282: reset at any moment, busy or not, gives the reset state and commits nothing;
what MEM and LCMD then hold can be anything. -/
def Obligations.ResetLeavesMemOpen : Prop :=
  ∀ (s : State) (rest : List Event),
    (∀ cells w, s.agenda = .reset cells w :: rest → ∃ m, step s = .next { State.reset with
      memSize := s.memSize, mem := m, lcmd := w, agenda := rest }) ∧
    (∀ (contents : Nat → Byte) (w : Word), ∃ cells t,
      step { s with agenda := .reset cells w :: rest } = .next t ∧ t.lcmd = w ∧
      ∀ a, a < s.memSize.toNat → Memory.read t.mem a = contents a)

/-- 10_state.md R45: the values the spec gives for reset, as the host and the hidden records hold them. -/
def Obligations.ResetStateAsTheSpecSays : Prop :=
  State.reset.ckey = Vector.replicate 32 0#8 ∧ State.reset.mkey = Vector.replicate 32 0#8 ∧
  State.reset.iv = Vector.replicate 16 0#8 ∧ State.reset.tagi = Vector.replicate 8 0#8 ∧
  State.reset.tago = Vector.replicate 8 0#8 ∧ State.reset.ckeyLen = 0#32 ∧ State.reset.mkeyLen = 0#32 ∧
  State.reset.ivLen = 0#32 ∧ State.reset.tagiLen = 0#32 ∧ State.reset.srcAddr = 0#32 ∧
  State.reset.srcLen = 0#32 ∧ State.reset.dstAddr = 0#32 ∧ State.reset.dstLen = 0#32 ∧
  State.reset.status.toWord = 0#32 ∧ State.reset.ctrl.toWord = 0#32 ∧ State.reset.work = Work.empty ∧
  State.reset.trace = [] ∧ State.reset.irq = false ∧ State.reset.readReg .id = 0x43424331#32 ∧
  State.reset.readReg .memSize = BitVec.ofNat 32 4096

/-! ### Memory as data -/

/-- 10_state.md R36, 00_scope.md section 5 (MemRead, MemWrite): a byte string written is read back from its region,
every other byte stays, and memories of the same contents are the same data. -/
def Obligations.MemoryIsItsContents : Prop :=
  (∀ (m : Memory) (a : Nat) (l : List Byte), Memory.readN (Memory.writeN m a l) a l.length = l ∧
    ∀ b, b < a ∨ a + l.length ≤ b → Memory.read (Memory.writeN m a l) b = Memory.read m b) ∧
  ∀ m1 m2 : Memory, Memory.wf m1 → Memory.wf m2 → (∀ a, Memory.read m1 a = Memory.read m2 a) → m1 = m2

/-! ### The functional units -/

/-- 42_padding.md R141: the padding laws. -/
def Obligations.UnpadInvertsPad : Prop :=
  ∀ x : List Byte, (pad x).length % 16 = 0 ∧ x.length < (pad x).length ∧ (pad x).length ≤ x.length + 16 ∧
    unpad (pad x) = some x ∧ ∀ d, unpad d = some x → pad x = d

/-- 42_padding.md R140: the reference scan of the last block computes the predicate of R136. -/
def Obligations.PaddingScanAgreesWithUnpad : Prop :=
  ∀ d : List Byte, 16 ≤ d.length → d.length % 16 = 0 → (paddingScanFails d = true ↔ unpad d = none)

/-- 44_mac.md R159: the comparison is equality of all 8 bytes, and the accumulating reference computes it. -/
def Obligations.ConstantTimeComparisonIsEquality : Prop :=
  ∀ a b : List Byte, a.length = 8 → b.length = 8 →
    (ctEq8 a b = true ↔ ∀ i, i < 8 → a.getD i 0#8 = b.getD i 0#8) ∧
    (ctEq8 a b = true ↔ ctAccumulate a b 0#8 = 0#8)

/-- 44_mac.md R156: a verification holds exactly for a tag of length 8 that is the recomputed one. -/
def Obligations.VerifyIsEqualityWithTheTag : Prop :=
  ∀ (k d t : List Byte) (tl : Word), t.length = 8 →
    (mac k d).length = 8 ∧ (verify k d t tl = true ↔ tl = 8#32 ∧ mac k d = t)

/-- 48_prim_aes.md R203, R204: the S-box tables agree with the algebraic definition and invert each other. -/
def Obligations.SboxTablesAgreeWithTheField : Prop :=
  (∀ a : Byte, sbox a = gfInv a ^^^ (gfInv a).rotateLeft 1 ^^^ (gfInv a).rotateLeft 2 ^^^ (gfInv a).rotateLeft 3 ^^^
      (gfInv a).rotateLeft 4 ^^^ 0x63#8 ∧
    invSbox (sbox a) = a ∧ sbox (invSbox a) = a ∧ (a ≠ 0#8 → gfMul a (gfInv a) = 1#8)) ∧
  gfInv 0#8 = 0#8 ∧ sbox 0x00#8 = 0x63#8 ∧ sbox 0x53#8 = 0xed#8 ∧ sbox 0xff#8 = 0x16#8 ∧ invSbox 0x00#8 = 0x52#8 ∧
  invSbox 0x63#8 = 0x00#8

/-- 00_scope.md R9: the block primitive and its inverse undo each other, for keys of 16 and of 32 bytes. -/
def Obligations.BlockCipherIsInvertible : Prop :=
  ∀ k b : List Byte, k.length = 16 ∨ k.length = 32 → b.length = 16 →
    blockDec k (blockEnc k b) = b ∧ blockEnc k (blockDec k b) = b

/-- 48_prim_aes.md R213: the known answers of the block primitive, both ways. -/
def Obligations.BlockCipherKnownAnswers : Prop :=
  let seq := fun n => (List.range n).map (BitVec.ofNat 8)
  let b1 := (List.range 16).map fun i => BitVec.ofNat 8 (0x11 * i)
  let c1 := beBytes 0x69c4e0d8#32 ++ beBytes 0x6a7b0430#32 ++ beBytes 0xd8cdb780#32 ++ beBytes 0x70b4c55a#32
  let c2 := beBytes 0x8ea2b7ca#32 ++ beBytes 0x516745bf#32 ++ beBytes 0xeafc4990#32 ++ beBytes 0x4b496089#32
  let c3 := beBytes 0x66e94bd4#32 ++ beBytes 0xef8a2c3b#32 ++ beBytes 0x884cfa59#32 ++ beBytes 0xca342b2e#32
  let c4 := beBytes 0xdc95c078#32 ++ beBytes 0xa2408989#32 ++ beBytes 0xad48a214#32 ++ beBytes 0x92842087#32
  let b5 := beBytes 0x4a474e4e#32 ++ beBytes 0x4d292929#32 ++ beBytes 0x29292929#32 ++ beBytes 0x29292929#32
  let c5 := beBytes 0xc2107af7#32 ++ beBytes 0xf64e7a44#32 ++ beBytes 0x3ee9d36a#32 ++ beBytes 0x1c2c4e4e#32
  let z := fun n => List.replicate n 0#8
  blockEnc (seq 16) b1 = c1 ∧ blockDec (seq 16) c1 = b1 ∧
  blockEnc (seq 32) b1 = c2 ∧ blockDec (seq 32) c2 = b1 ∧
  blockEnc (z 16) (z 16) = c3 ∧ blockDec (z 16) c3 = z 16 ∧
  blockEnc (z 32) (z 16) = c4 ∧ blockDec (z 32) c4 = z 16 ∧
  blockEnc (z 32) b5 = c5 ∧ blockDec (z 32) c5 = b5

/-- 43_cbc.md R145, R146: the chaining of the mode, block by block. -/
def Obligations.CbcChainsTheBlocks : Prop :=
  ∀ k iv b rest : List Byte, iv.length = 16 → b.length = 16 → rest.length % 16 = 0 →
    cbcEnc k iv [] = [] ∧ cbcDec k iv [] = [] ∧
    cbcEnc k iv (b ++ rest) = blockEnc k (xorBytes b iv) ++ cbcEnc k (blockEnc k (xorBytes b iv)) rest ∧
    cbcDec k iv (b ++ rest) = xorBytes (blockDec k b) iv ++ cbcDec k b rest ∧
    (cbcEnc k iv (b ++ rest)).length = 16 + rest.length ∧ (cbcDec k iv (b ++ rest)).length = 16 + rest.length

/-- 43_cbc.md R150: decryption inverts encryption in the mode, lengths are kept, and padding goes through. -/
def Obligations.CbcRoundTrip : Prop :=
  ∀ k iv : List Byte, k.length = 16 ∨ k.length = 32 → iv.length = 16 →
    (∀ p : List Byte, p.length % 16 = 0 → cbcDec k iv (cbcEnc k iv p) = p ∧ (cbcEnc k iv p).length = p.length) ∧
    (∀ x : List Byte, (pad x).length % 16 = 0 ∧ unpad (cbcDec k iv (cbcEnc k iv (pad x))) = some x)

/-- 43_cbc.md R151, but for how the changed block itself decrypts: a changed IV flips the same bits of the first
block only; a changed ciphertext block flips the same bits of the next block and leaves the ones after it alone. -/
def Obligations.CbcChangesStayLocal : Prop :=
  ∀ k iv d c1 c2 rest : List Byte, iv.length = 16 → d.length = 16 → c1.length = 16 → c2.length = 16 →
    rest.length % 16 = 0 →
    cbcDec k (xorBytes iv d) (c1 ++ rest) = xorBytes (xorBytes (blockDec k c1) iv) d ++ cbcDec k c1 rest ∧
    cbcDec k iv (xorBytes c1 d ++ c2 ++ rest) =
      xorBytes (blockDec k (xorBytes c1 d)) iv ++ xorBytes (xorBytes (blockDec k c2) c1) d ++ cbcDec k c2 rest

/-- 49_prim_sha256_hmac.md R223: the message padding, with the least number of zeros and the bit length. -/
def Obligations.ShaPaddingFillsWholeBlocks : Prop :=
  ∀ m : List Byte, 8 * m.length < 2 ^ 64 → ∃ (z : Nat) (len8 : List Byte),
    padSha m = m ++ [0x80#8] ++ List.replicate z 0#8 ++ len8 ∧
    (m.length + 1 + z) % 64 = 56 ∧ (∀ y, (m.length + 1 + y) % 64 = 56 → z ≤ y) ∧
    len8.length = 8 ∧ len8.foldl (fun n b => 256 * n + b.toNat) 0 = 8 * m.length ∧
    (padSha m).length % 64 = 0

/-- 49_prim_sha256_hmac.md R229: the known answers of the hash and of HMAC, the whole table. -/
def Obligations.HashKnownAnswers : Prop :=
  let seq := fun n => (List.range n).map (BitVec.ofNat 8)
  let rep := fun (n : Nat) (b : Byte) => List.replicate n b
  let words := fun ws : List Word => ws.flatMap beBytes
  let ct := words [0xc2107af7#32, 0xf64e7a44#32, 0x3ee9d36a#32, 0x1c2c4e4e#32]
  sha256 [] =
    words [0xe3b0c442#32, 0x98fc1c14#32, 0x9afbf4c8#32, 0x996fb924#32,
      0x27ae41e4#32, 0x649b934c#32, 0xa495991b#32, 0x7852b855#32] ∧
  sha256 [0x61#8, 0x62#8, 0x63#8] =
    words [0xba7816bf#32, 0x8f01cfea#32, 0x414140de#32, 0x5dae2223#32,
      0xb00361a3#32, 0x96177a9c#32, 0xb410ff61#32, 0xf20015ad#32] ∧
  sha256 (
    words [0x61626364#32, 0x62636465#32, 0x63646566#32, 0x64656667#32, 0x65666768#32,
    0x66676869#32, 0x6768696a#32, 0x68696a6b#32, 0x696a6b6c#32, 0x6a6b6c6d#32, 0x6b6c6d6e#32,
    0x6c6d6e6f#32, 0x6d6e6f70#32, 0x6e6f7071#32]) =
    words [0x248d6a61#32, 0xd20638b8#32, 0xe5c02693#32, 0x0c3e6039#32,
      0xa33ce459#32, 0x64ff2167#32, 0xf6ecedd4#32, 0x19db06c1#32] ∧
  sha256 (rep 55 0x61#8) =
    words [0x9f4390f8#32, 0xd30c2dd9#32, 0x2ec9f095#32, 0xb65e2b9a#32,
      0xe9b0a925#32, 0xa5258e24#32, 0x1c9f1e91#32, 0x0f734318#32] ∧
  sha256 (rep 56 0x61#8) =
    words [0xb35439a4#32, 0xac6f0948#32, 0xb6d6f9e3#32, 0xc6af0f5f#32,
      0x590ce20f#32, 0x1bde7090#32, 0xef797068#32, 0x6ec6738a#32] ∧
  sha256 (rep 64 0x61#8) =
    words [0xffe054fe#32, 0x7ae0cb6d#32, 0xc65c3af9#32, 0xb61d5209#32,
      0xf439851d#32, 0xb43d0ba5#32, 0x997337df#32, 0x154668eb#32] ∧
  hmacSha256 (rep 20 0x0b#8) (words [0x48692054#32, 0x68657265#32]) =
    words [0xb0344c61#32, 0xd8db3853#32, 0x5ca8afce#32, 0xaf0bf12b#32,
      0x881dc200#32, 0xc9833da7#32, 0x26e9376c#32, 0x2e32cff7#32] ∧
  hmacSha256 (words [0x4a656665#32]) (words [0x77686174#32, 0x20646f20#32, 0x79612077#32,
    0x616e7420#32, 0x666f7220#32, 0x6e6f7468#32, 0x696e673f#32]) =
    words [0x5bdcc146#32, 0xbf60754e#32, 0x6a042426#32, 0x089575c7#32,
      0x5a003f08#32, 0x9d273983#32, 0x9dec58b9#32, 0x64ec3843#32] ∧
  hmacSha256 (rep 32 0x11#8) [] =
    words [0x02c2cae4#32, 0x5f82ce4b#32, 0x76cc75a1#32, 0x8b9af0d6#32,
      0x7ec9b2ea#32, 0xe1695d04#32, 0x80f34225#32, 0x33bb06d2#32] ∧
  hmacSha256 (rep 32 0x11#8) ct =
    words [0xee38e8f3#32, 0xb44a9d49#32, 0x03ca9904#32, 0x2bb2376f#32,
      0xae50419f#32, 0x5023a1e2#32, 0x133e143d#32, 0x6d458eb8#32] ∧
  hmacSha256 (rep 32 0x11#8) (rep 16 0x22#8 ++ ct) =
    words [0xea4af6ce#32, 0xe648aa7b#32, 0xb123f4ec#32, 0x49461b93#32,
      0xe9cfa5f7#32, 0xb72090bd#32, 0x8a6abcad#32, 0x6c183bdb#32] ∧
  hmacSha256 (seq 32) [] =
    words [0xd38b4209#32, 0x6d80f45f#32, 0x826b44a9#32, 0xd5607de7#32,
      0x2496a415#32, 0xd3f4a1a8#32, 0xc88e3bb9#32, 0xda8dc1cb#32] ∧
  hmacSha256 (seq 32) (seq 100) =
    words [0xa0b85e51#32, 0x1189b13c#32, 0x4dc40f88#32, 0x58eaa1bf#32,
      0xfef70151#32, 0x918f1234#32, 0x54870b49#32, 0xa7bbd512#32]

/-! ### The commands -/

/-- 41_validate.md R125, R127: VALIDATE, whole. -/
def Obligations.ValidateReportsTheLengths : Prop :=
  encode .validate = 0x00000001#32 ∧ ∀ s : State,
    (s.LengthsOk → EndsReporting .validate s false s.tago [.v]) ∧
    (¬ s.KeysOk → EndsWithError .validate s .invalidKeyLength [.v]) ∧
    (s.KeysOk → s.ivLen ≠ 16#32 → EndsWithError .validate s .invalidIVLength [.v])

/-- 42_padding.md R135, R137: PAD, whole. -/
def Obligations.PadStoresThePaddedSource : Prop :=
  encode .pad = 0x00000002#32 ∧
  (∀ d : List Byte, 1 ≤ padCount d.length ∧ padCount d.length ≤ 16 ∧ padCount d.length = 16 - d.length % 16 ∧
    pad d = d ++ List.replicate (padCount d.length) (BitVec.ofNat 8 (padCount d.length))) ∧
  ∀ s : State,
    (s.SourceInMem → s.RoomFor (16 * (s.srcLen.toNat / 16 + 1)) →
      EndsWithOutput .pad s (pad s.source) s.tago [.pad] ∧
      (pad s.source).length = 16 * (s.srcLen.toNat / 16 + 1)) ∧
    (¬ s.SourceInMem ∨ ¬ s.RoomFor (16 * (s.srcLen.toNat / 16 + 1)) → EndsWithError .pad s .addressError [])

/-- 42_padding.md R136, R138: UNPAD, whole. -/
def Obligations.UnpadStoresTheUnpaddedSource : Prop :=
  encode .unpad = 0x00000003#32 ∧
  (∀ d x : List Byte, unpad d = some x ↔
    d.length ≠ 0 ∧ d.length % 16 = 0 ∧ ∃ p, p = (d.getD (d.length - 1) 0#8).toNat ∧ 1 ≤ p ∧ p ≤ 16 ∧
      (∀ i, d.length - p ≤ i → i < d.length → (d.getD i 0#8).toNat = p) ∧ x = d.take (d.length - p)) ∧
  ∀ s : State,
    (∀ x, s.SourceInMem → s.RoomFor s.srcLen.toNat → unpad s.source = some x →
      EndsWithOutput .unpad s x s.tago [.unpad]) ∧
    (s.SourceInMem → s.RoomFor s.srcLen.toNat → unpad s.source = none →
      EndsWithError .unpad s .paddingError [.unpad]) ∧
    (¬ s.SourceInMem ∨ ¬ s.RoomFor s.srcLen.toNat → EndsWithError .unpad s .addressError [])

/-- 43_cbc.md R147, R149: ENCRYPT, whole. -/
def Obligations.EncryptStoresTheCiphertext : Prop :=
  encode .encrypt = 0x00000004#32 ∧ ∀ s : State,
    (s.SourceInMem → s.RoomFor s.srcLen.toNat → s.CipherKeyOk → s.ivLen = 16#32 → s.srcLen.toNat % 16 = 0 →
      EndsWithOutput .encrypt s (cbcEnc (s.ckey.toList.take s.ckeyLen.toNat) s.iv.toList s.source) s.tago [.v, .enc] ∧
      (cbcEnc (s.ckey.toList.take s.ckeyLen.toNat) s.iv.toList s.source).length = s.srcLen.toNat) ∧
    (¬ s.SourceInMem ∨ ¬ s.RoomFor s.srcLen.toNat → EndsWithError .encrypt s .addressError []) ∧
    (s.SourceInMem → s.RoomFor s.srcLen.toNat → ¬ s.CipherKeyOk → EndsWithError .encrypt s .invalidKeyLength [.v]) ∧
    (s.SourceInMem → s.RoomFor s.srcLen.toNat → s.CipherKeyOk → s.ivLen ≠ 16#32 →
      EndsWithError .encrypt s .invalidIVLength [.v]) ∧
    (s.SourceInMem → s.RoomFor s.srcLen.toNat → s.CipherKeyOk → s.ivLen = 16#32 → s.srcLen.toNat % 16 ≠ 0 →
      EndsWithError .encrypt s .invalidInputLength [.v])

/-- 43_cbc.md R148, R149: DECRYPT, whole. -/
def Obligations.DecryptStoresThePlaintext : Prop :=
  encode .decrypt = 0x00000005#32 ∧ ∀ s : State,
    (s.SourceInMem → s.RoomFor s.srcLen.toNat → s.CipherKeyOk → s.ivLen = 16#32 → s.srcLen.toNat % 16 = 0 →
      EndsWithOutput .decrypt s (cbcDec (s.ckey.toList.take s.ckeyLen.toNat) s.iv.toList s.source) s.tago [.v, .dec] ∧
      (cbcDec (s.ckey.toList.take s.ckeyLen.toNat) s.iv.toList s.source).length = s.srcLen.toNat) ∧
    (¬ s.SourceInMem ∨ ¬ s.RoomFor s.srcLen.toNat → EndsWithError .decrypt s .addressError []) ∧
    (s.SourceInMem → s.RoomFor s.srcLen.toNat → ¬ s.CipherKeyOk → EndsWithError .decrypt s .invalidKeyLength [.v]) ∧
    (s.SourceInMem → s.RoomFor s.srcLen.toNat → s.CipherKeyOk → s.ivLen ≠ 16#32 →
      EndsWithError .decrypt s .invalidIVLength [.v]) ∧
    (s.SourceInMem → s.RoomFor s.srcLen.toNat → s.CipherKeyOk → s.ivLen = 16#32 → s.srcLen.toNat % 16 ≠ 0 →
      EndsWithError .decrypt s .invalidInputLength [.v])

/-- 44_mac.md R155, R157: MAC, whole. -/
def Obligations.MacPutsTheTagIntoTago : Prop :=
  encode .mac = 0x00000006#32 ∧ (∀ k d : List Byte, mac k d = (hmacSha256 k d).take 8 ∧ (hmacSha256 k d).length = 32) ∧
  ∀ s : State,
    (s.SourceInMem → s.mkeyLen = 32#32 → ∃ tag : Vector Byte 8, tag.toList = mac s.mkey.toList s.source ∧
      EndsReporting .mac s false tag [.v, .mac]) ∧
    (¬ s.SourceInMem → EndsWithError .mac s .addressError []) ∧
    (s.SourceInMem → s.mkeyLen ≠ 32#32 → EndsWithError .mac s .invalidKeyLength [.v])

/-- 44_mac.md R158, R160: VERIFY, whole; it reports the one bit MATCH and leaves TAGO alone. -/
def Obligations.VerifyReportsTheMatch : Prop :=
  encode .verify = 0x00000007#32 ∧ ∀ s : State,
    (s.SourceInMem → s.mkeyLen = 32#32 → s.tagiLen = 8#32 →
      EndsReporting .verify s (mac s.mkey.toList s.source == s.tagi.toList) s.tago [.v, .mac, .cmp]) ∧
    (s.SourceInMem → s.mkeyLen = 32#32 → s.tagiLen ≠ 8#32 → EndsReporting .verify s false s.tago [.v]) ∧
    (¬ s.SourceInMem → EndsWithError .verify s .addressError []) ∧
    (s.SourceInMem → s.mkeyLen ≠ 32#32 → EndsWithError .verify s .invalidKeyLength [.v])

/-- 45_envelope.md R165 to R169: the three SEAL commands, whole. -/
def Obligations.SealStoresCiphertextAndTag : Prop :=
  encode .sealCt = 0x00000008#32 ∧ encode .sealIvct = 0x00000018#32 ∧ encode .sealPt = 0x00000028#32 ∧
  (∀ iv ct pt : List Byte, macInput .ciphertextOnly iv ct pt = ct ∧ macInput .ivThenCiphertext iv ct pt = iv ++ ct ∧
    macInput .plaintextOnly iv ct pt = pt) ∧
  ∀ (scope : MacScope) (s : State),
    (s.SourceInMem → s.RoomFor (16 * (s.srcLen.toNat / 16 + 1)) → s.LengthsOk →
      ∃ (ct : List Byte) (tag : Vector Byte 8),
        ct = cbcEnc (s.ckey.toList.take s.ckeyLen.toNat) s.iv.toList (pad s.source) ∧
        ct.length = 16 * (s.srcLen.toNat / 16 + 1) ∧
        tag.toList = mac s.mkey.toList (macInput scope s.iv.toList ct s.source) ∧
        EndsWithOutput (sealOf scope) s ct tag [.v, .pad, .enc, .mac]) ∧
    (¬ s.SourceInMem ∨ ¬ s.RoomFor (16 * (s.srcLen.toNat / 16 + 1)) →
      EndsWithError (sealOf scope) s .addressError []) ∧
    (s.SourceInMem → s.RoomFor (16 * (s.srcLen.toNat / 16 + 1)) → ¬ s.KeysOk →
      EndsWithError (sealOf scope) s .invalidKeyLength [.v]) ∧
    (s.SourceInMem → s.RoomFor (16 * (s.srcLen.toNat / 16 + 1)) → s.KeysOk → s.ivLen ≠ 16#32 →
      EndsWithError (sealOf scope) s .invalidIVLength [.v])

/-- 45_envelope.md R170, R172, R173, R178: OPEN.CT and OPEN.IVCT, whole: verify, then decrypt. -/
def Obligations.OpenVerifiesThenDecrypts : Prop :=
  encode .openCt = 0x00000009#32 ∧ encode .openIvct = 0x00000019#32 ∧
  ∀ (scope : MacScope) (s : State), scope ≠ .plaintextOnly →
    (¬ s.SourceInMem ∨ ¬ s.RoomFor s.srcLen.toNat → EndsWithError (openOf scope) s .addressError []) ∧
    (s.SourceInMem → s.RoomFor s.srcLen.toNat → ¬ s.KeysOk →
      EndsWithError (openOf scope) s .invalidKeyLength [.v]) ∧
    (s.SourceInMem → s.RoomFor s.srcLen.toNat → s.KeysOk → s.ivLen ≠ 16#32 →
      EndsWithError (openOf scope) s .invalidIVLength [.v]) ∧
    (s.SourceInMem → s.RoomFor s.srcLen.toNat → s.LengthsOk → s.tagiLen ≠ 8#32 →
      EndsWithError (openOf scope) s .authenticationFailure [.v]) ∧
    (s.SourceInMem → s.RoomFor s.srcLen.toNat → s.LengthsOk → s.tagiLen = 8#32 →
      mac s.mkey.toList (macInput scope s.iv.toList s.source []) ≠ s.tagi.toList →
      EndsWithError (openOf scope) s .authenticationFailure [.v, .mac, .cmp]) ∧
    (s.SourceInMem → s.RoomFor s.srcLen.toNat → s.LengthsOk → s.tagiLen = 8#32 →
      mac s.mkey.toList (macInput scope s.iv.toList s.source []) = s.tagi.toList → s.srcLen.toNat % 16 ≠ 0 →
      EndsWithError (openOf scope) s .invalidInputLength [.v, .mac, .cmp]) ∧
    (s.SourceInMem → s.RoomFor s.srcLen.toNat → s.LengthsOk → s.tagiLen = 8#32 →
      mac s.mkey.toList (macInput scope s.iv.toList s.source []) = s.tagi.toList → s.srcLen.toNat % 16 = 0 →
      unpad (cbcDec (s.ckey.toList.take s.ckeyLen.toNat) s.iv.toList s.source) = none →
      EndsWithError (openOf scope) s .authenticationFailure [.v, .mac, .cmp, .dec, .unpad]) ∧
    (∀ pt, s.SourceInMem → s.RoomFor s.srcLen.toNat → s.LengthsOk → s.tagiLen = 8#32 →
      mac s.mkey.toList (macInput scope s.iv.toList s.source []) = s.tagi.toList → s.srcLen.toNat % 16 = 0 →
      unpad (cbcDec (s.ckey.toList.take s.ckeyLen.toNat) s.iv.toList s.source) = some pt →
      EndsWithOutput (openOf scope) s pt s.tago [.v, .mac, .cmp, .dec, .unpad])

/-- 45_envelope.md R171, R174, R178: OPEN.PT, whole: decrypt, unpad, then verify. -/
def Obligations.OpenPlaintextDecryptsThenVerifies : Prop :=
  encode .openPt = 0x00000029#32 ∧ ∀ s : State,
    (¬ s.SourceInMem ∨ ¬ s.RoomFor s.srcLen.toNat → EndsWithError .openPt s .addressError []) ∧
    (s.SourceInMem → s.RoomFor s.srcLen.toNat → ¬ s.KeysOk → EndsWithError .openPt s .invalidKeyLength [.v]) ∧
    (s.SourceInMem → s.RoomFor s.srcLen.toNat → s.KeysOk → s.ivLen ≠ 16#32 →
      EndsWithError .openPt s .invalidIVLength [.v]) ∧
    (s.SourceInMem → s.RoomFor s.srcLen.toNat → s.LengthsOk → s.srcLen.toNat % 16 ≠ 0 →
      EndsWithError .openPt s .invalidInputLength [.v]) ∧
    (s.SourceInMem → s.RoomFor s.srcLen.toNat → s.LengthsOk → s.srcLen.toNat % 16 = 0 →
      unpad (cbcDec (s.ckey.toList.take s.ckeyLen.toNat) s.iv.toList s.source) = none →
      EndsWithError .openPt s .authenticationFailure [.v, .dec, .unpad]) ∧
    (∀ pt, s.SourceInMem → s.RoomFor s.srcLen.toNat → s.LengthsOk → s.srcLen.toNat % 16 = 0 →
      unpad (cbcDec (s.ckey.toList.take s.ckeyLen.toNat) s.iv.toList s.source) = some pt →
      (s.tagiLen ≠ 8#32 → EndsWithError .openPt s .authenticationFailure [.v, .dec, .unpad]) ∧
      (s.tagiLen = 8#32 → mac s.mkey.toList pt ≠ s.tagi.toList →
        EndsWithError .openPt s .authenticationFailure [.v, .dec, .unpad, .mac, .cmp]) ∧
      (s.tagiLen = 8#32 → mac s.mkey.toList pt = s.tagi.toList →
        EndsWithOutput .openPt s pt s.tago [.v, .dec, .unpad, .mac, .cmp]))

/-- 46_system.md R185: WIPE, whole. -/
def Obligations.WipeClearsEverything : Prop :=
  encode .wipe = 0x0000000A#32 ∧ ∀ s : State, ∃ m, (∀ a, Memory.read m a = 0#8) ∧ exec .wipe s = .next { s with
    ckey := Vector.replicate 32 0#8, mkey := Vector.replicate 32 0#8, iv := Vector.replicate 16 0#8,
    tagi := Vector.replicate 8 0#8, tago := Vector.replicate 8 0#8,
    ckeyLen := 0#32, mkeyLen := 0#32, ivLen := 0#32, tagiLen := 0#32,
    srcAddr := 0#32, srcLen := 0#32, dstAddr := 0#32, dstLen := 0#32,
    mem := m,
    work := Work.empty,
    status := { s.status with busy := false, done := true, matched := false, err := none } }

/-- 45_envelope.md R180: what SEAL produced under a scope, OPEN under the same scope, keys and IV returns. -/
def Obligations.OpenReturnsWhatSealSealed : Prop :=
  ∀ (scope : MacScope) (s t u : State),
    s.LengthsOk → s.SourceInMem → s.RoomFor (16 * (s.srcLen.toNat / 16 + 1)) →
    exec (sealOf scope) s = .next t →
    u.envelopeParams = s.envelopeParams → u.tagi = t.tago → u.tagiLen = 8#32 → u.SourceInMem →
    u.RoomFor u.srcLen.toNat → u.source = Memory.readN t.mem s.dstAddr.toNat t.dstLen.toNat →
    EndsWithOutput (openOf scope) u s.source u.tago (openPhases scope)

/-- 60_exceptions.md R253, 45_envelope.md R175 to R177: whatever made an OPEN fail with AuthenticationFailure, the host
sees the view it had at issue with only STATUS changed, so it cannot tell a bad tag from a bad padding. -/
def Obligations.OpenFailuresLookAlike : Prop :=
  ∀ (scope : MacScope) (s1 t1 : State), exec (openOf scope) s1 = .next t1 →
    t1.status.err = some .authenticationFailure →
    t1.hostView = { s1 with status := { s1.status with
      busy := false, done := true, err := some .authenticationFailure } }.hostView ∧
    (s1.JustIssued → t1.status.toWord = (if s1.status.lockErr then 0x0000050A#32 else 0x00000502#32) ∧
      t1.dstLen = 0#32 ∧ t1.tago = Vector.replicate 8 0#8) ∧
    ∀ s2 t2 : State, s2.memSize = s1.memSize → s2.hostView = s1.hostView → exec (openOf scope) s2 = .next t2 →
      t2.status.err = some .authenticationFailure → t2.hostView = t1.hostView
end

