-- ==== Sys2Proof/Laws/Memory.lean ====
section
/-! SUPPORT. MEM as data (10_state.md R36): what a read after a write gives, and that every operation keeps the
canonical form `Memory.wf` and stays inside MEM. -/

namespace Sys2Proof.Machine

/-! ### Reading after writing -/

theorem Memory.read_nil (a : Nat) : Memory.read [] a = 0#8 := rfl

theorem Memory.read_cons (c : Host.Cell) (m : Memory) (a : Nat) :
    Memory.read (c :: m) a = if a = c.1 then c.2 else Memory.read m a := rfl

/-- An address that no entry names reads as 0 (log 2). -/
theorem Memory.read_of_unlisted {m : Memory} {a : Nat} (h : ∀ c ∈ m, c.1 ≠ a) : Memory.read m a = 0#8 := by
  induction m with
  | nil => rfl
  | cons c m ih =>
    have hc := h c (by simp)
    rw [Memory.read_cons, if_neg (fun e => hc e.symm)]
    exact ih fun d hd => h d (by simp [hd])

theorem Memory.read_filter_ne (m : Memory) (a b : Nat) :
    Memory.read (m.filter fun c => c.1 != a) b = if b = a then 0#8 else Memory.read m b := by
  induction m with
  | nil => simp [Memory.read_nil]
  | cons c m ih =>
    by_cases hc : c.1 = a
    · rw [List.filter_cons_of_neg (by simp [hc]), ih, Memory.read_cons]
      by_cases hb : b = a
      · simp [hb]
      · rw [if_neg hb, if_neg hb, if_neg fun e => hb (e.trans hc)]
    · rw [List.filter_cons_of_pos (by simp [hc]), Memory.read_cons, ih, Memory.read_cons]
      by_cases hb : b = c.1
      · subst hb; simp [hc]
      · simp [hb]

theorem Memory.read_insert {m : Memory} {a : Nat} (v : Byte) (b : Nat) (h : ∀ c ∈ m, c.1 ≠ a) :
    Memory.read (Memory.insert m a v) b = if b = a then v else Memory.read m b := by
  induction m with
  | nil => simp [Memory.insert, Memory.read_cons]
  | cons c m ih =>
    have hc := h c (by simp)
    simp only [Memory.insert]
    split
    · rw [Memory.read_cons]
    · rw [Memory.read_cons, Memory.read_cons, ih fun d hd => h d (by simp [hd])]
      by_cases hb : b = c.1
      · subst hb; simp [hc]
      · simp [hb]

/-- Reading after a write: the byte written at its address, every other byte as before. -/
theorem Memory.read_write (m : Memory) (a b : Nat) (v : Byte) :
    Memory.read (Memory.write m a v) b = if b = a then v else Memory.read m b := by
  simp only [Memory.write]
  split
  · rename_i hv; rw [Memory.read_filter_ne, hv]
  · rw [Memory.read_insert v b (by simp), Memory.read_filter_ne]
    by_cases hb : b = a <;> simp [hb]

/-- Reading after a byte string was written: its bytes in its region, every other byte as before. -/
theorem Memory.read_writeN (m : Memory) (a b : Nat) (l : List Byte) :
    Memory.read (Memory.writeN m a l) b =
      if a ≤ b ∧ b < a + l.length then l.getD (b - a) 0#8 else Memory.read m b := by
  induction l generalizing m a with
  | nil => rw [Memory.writeN, if_neg (by simp)]
  | cons v l ih =>
    rw [Memory.writeN, ih, Memory.read_write]
    by_cases h : b = a
    · subst h; simp
    · by_cases h2 : a ≤ b ∧ b < a + (v :: l).length
      · have h3 : a + 1 ≤ b ∧ b < a + 1 + l.length := by simp at h2; omega
        have h4 : b - a = b - (a + 1) + 1 := by omega
        rw [if_pos h3, if_pos h2, h4, List.getD_cons_succ]
      · have h3 : ¬(a + 1 ≤ b ∧ b < a + 1 + l.length) := by simp at h2; omega
        rw [if_neg h3, if_neg h2, if_neg h]

theorem Memory.read_writeN_outside {m : Memory} {a b : Nat} {l : List Byte} (h : b < a ∨ a + l.length ≤ b) :
    Memory.read (Memory.writeN m a l) b = Memory.read m b := by
  rw [Memory.read_writeN, if_neg (by omega)]

theorem Memory.read_writeN_inside {m : Memory} {a k : Nat} {l : List Byte} (h : k < l.length) :
    Memory.read (Memory.writeN m a l) (a + k) = l.getD k 0#8 := by
  rw [Memory.read_writeN, if_pos (by omega), Nat.add_sub_cancel_left]

@[simp] theorem Memory.readN_length (m : Memory) (a n : Nat) : (Memory.readN m a n).length = n := by
  induction n generalizing a with
  | zero => rfl
  | succ n ih => simp [Memory.readN, ih]

theorem Memory.readN_getD {m : Memory} {a n k : Nat} (h : k < n) :
    (Memory.readN m a n).getD k 0#8 = Memory.read m (a + k) := by
  induction n generalizing a k with
  | zero => omega
  | succ n ih =>
    cases k with
    | zero => rfl
    | succ k =>
      rw [Memory.readN, List.getD_cons_succ, ih (by omega)]
      congr 1; omega

/-- Two regions that read alike byte by byte are the same byte string. -/
theorem Memory.readN_congr {m m' : Memory} {a a' n : Nat}
    (h : ∀ k, k < n → Memory.read m (a + k) = Memory.read m' (a' + k)) :
    Memory.readN m a n = Memory.readN m' a' n := by
  induction n generalizing a a' with
  | zero => rfl
  | succ n ih =>
    have h0 := h 0 (by omega)
    simp only [Nat.add_zero] at h0
    rw [Memory.readN, Memory.readN, h0, ih]
    intro k hk
    have := h (k + 1) (by omega)
    rwa [show a + (k + 1) = a + 1 + k by omega, show a' + (k + 1) = a' + 1 + k by omega] at this

/-! ### The canonical form -/

theorem Memory.mem_insert {m : Memory} {a : Nat} {v : Byte} {c : Host.Cell} :
    c ∈ Memory.insert m a v ↔ c = (a, v) ∨ c ∈ m := by
  induction m with
  | nil => simp [Memory.insert]
  | cons d m ih =>
    simp only [Memory.insert]
    split
    · simp
    · simp only [List.mem_cons, ih]; tauto

theorem Memory.wf_filter {m : Memory} (p : Host.Cell → Bool) (h : Memory.wf m) : Memory.wf (m.filter p) :=
  ⟨h.1.filter p, fun c hc => h.2 c (List.mem_of_mem_filter hc)⟩

theorem Memory.wf_insert {m : Memory} {a : Nat} {v : Byte} (h : Memory.wf m) (ha : ∀ c ∈ m, c.1 ≠ a)
    (hv : v ≠ 0#8) : Memory.wf (Memory.insert m a v) := by
  refine ⟨?_, fun c hc => ?_⟩
  · have h1 := h.1
    clear h
    induction m with
    | nil => simp [Memory.insert]
    | cons d m ih =>
      have hd := ha d (by simp)
      rw [List.pairwise_cons] at h1
      simp only [Memory.insert]
      split
      · rename_i hlt
        rw [List.pairwise_cons, List.pairwise_cons]
        refine ⟨fun c hc => ?_, h1⟩
        rcases List.mem_cons.1 hc with rfl | hc
        · exact hlt
        · exact Nat.lt_trans hlt (h1.1 c hc)
      · rw [List.pairwise_cons]
        refine ⟨fun c hc => ?_, ih (fun c hc => ha c (by simp [hc])) h1.2⟩
        rcases Memory.mem_insert.1 hc with rfl | hc
        · show d.1 < a; omega
        · exact h1.1 c hc
  · rcases Memory.mem_insert.1 hc with rfl | hc
    · exact hv
    · exact h.2 c hc

/-- A write keeps the canonical form. -/
theorem Memory.wf_write {m : Memory} (a : Nat) (v : Byte) (h : Memory.wf m) : Memory.wf (Memory.write m a v) := by
  simp only [Memory.write]
  split
  · exact Memory.wf_filter _ h
  · exact Memory.wf_insert (Memory.wf_filter _ h) (by simp) (by assumption)

/-- A write inside MEM stays inside MEM. -/
theorem Memory.within_write {m : Memory} {n a : Nat} (v : Byte) (h : Memory.within n m) (ha : a < n) :
    Memory.within n (Memory.write m a v) := by
  simp only [Memory.write]
  split
  · exact fun c hc => h c (List.mem_of_mem_filter hc)
  · intro c hc
    rcases Memory.mem_insert.1 hc with rfl | hc
    · exact ha
    · exact h c (List.mem_of_mem_filter hc)

/-- Writing a byte string keeps the canonical form. -/
theorem Memory.wf_writeN {m : Memory} (a : Nat) (l : List Byte) (h : Memory.wf m) :
    Memory.wf (Memory.writeN m a l) := by
  induction l generalizing m a with
  | nil => exact h
  | cons v l ih => exact ih _ (Memory.wf_write a v h)

/-- Writing a byte string inside MEM stays inside MEM. -/
theorem Memory.within_writeN {m : Memory} {n a : Nat} {l : List Byte} (h : Memory.within n m)
    (ha : a + l.length ≤ n) : Memory.within n (Memory.writeN m a l) := by
  induction l generalizing m a with
  | nil => exact h
  | cons v l ih =>
    simp only [List.length_cons] at ha
    exact ih (Memory.within_write v h (by omega)) (by omega)

theorem Memory.wf_nil : Memory.wf [] := ⟨List.Pairwise.nil, by simp⟩

/-- What a reset leaves in MEM is in canonical form and inside MEM. -/
theorem Memory.load_ok (n : Nat) (cells : List Host.Cell) :
    Memory.wf (Memory.load n cells) ∧ Memory.within n (Memory.load n cells) := by
  suffices h : ∀ m : Memory, Memory.wf m ∧ Memory.within n m →
      Memory.wf (cells.foldl (fun m c => if c.1 < n then Memory.write m c.1 c.2 else m) m) ∧
      Memory.within n (cells.foldl (fun m c => if c.1 < n then Memory.write m c.1 c.2 else m) m) from
    h [] ⟨Memory.wf_nil, by simp⟩
  induction cells with
  | nil => exact fun m h => h
  | cons c cells ih =>
    intro m h
    rw [List.foldl_cons]
    apply ih
    split
    · exact ⟨Memory.wf_write _ _ h.1, Memory.within_write _ h.2 (by assumption)⟩
    · exact h

/-- The memory after reset is in canonical form. -/
theorem State.reset_mem_wf : Memory.wf State.reset.mem := Memory.wf_nil

/-- No sequencer write breaks the canonical form (20_memory.md R72). -/
theorem State.memWrite_wf {s t : State} {a : Nat} {v : List Byte} (h : s.memWrite a v = some t)
    (hs : Memory.wf s.mem) : Memory.wf t.mem := by
  simp only [State.memWrite] at h
  split at h
  · cases h; exact Memory.wf_writeN _ _ hs
  · cases h

end Sys2Proof.Machine
end

