-- ==== Sys2Proof/Laws/State.lean ====
section
/-! SUPPORT. One lemma for each field of State under each update of Machine/Ops.lean and Machine/Bus.lean, and for
each field of STATUS under each update of Machine/Flags.lean, so that no later proof unfolds a record update. -/

namespace Sys2Proof.Machine

variable (s : State) (st : Status)

/-! ### STATUS -/

@[simp] theorem Status.issued_busy : st.issued.busy = true := rfl
@[simp] theorem Status.issued_done : st.issued.done = false := rfl
@[simp] theorem Status.issued_matched : st.issued.matched = false := rfl
@[simp] theorem Status.issued_lockErr : st.issued.lockErr = false := rfl
@[simp] theorem Status.issued_err : st.issued.err = none := rfl

@[simp] theorem Status.failed_busy (e : ErrorKind) : (st.failed e).busy = false := rfl
@[simp] theorem Status.failed_done (e : ErrorKind) : (st.failed e).done = true := rfl
@[simp] theorem Status.failed_matched (e : ErrorKind) : (st.failed e).matched = st.matched := rfl
@[simp] theorem Status.failed_lockErr (e : ErrorKind) : (st.failed e).lockErr = st.lockErr := rfl
@[simp] theorem Status.failed_err (e : ErrorKind) : (st.failed e).err = some e := rfl

@[simp] theorem Status.succeeded_busy (m : Bool) : (st.succeeded m).busy = false := rfl
@[simp] theorem Status.succeeded_done (m : Bool) : (st.succeeded m).done = true := rfl
@[simp] theorem Status.succeeded_matched (m : Bool) : (st.succeeded m).matched = m := rfl
@[simp] theorem Status.succeeded_lockErr (m : Bool) : (st.succeeded m).lockErr = st.lockErr := rfl
@[simp] theorem Status.succeeded_err (m : Bool) : (st.succeeded m).err = none := rfl

@[simp] theorem Status.locked_busy : st.locked.busy = st.busy := rfl
@[simp] theorem Status.locked_done : st.locked.done = st.done := rfl
@[simp] theorem Status.locked_matched : st.locked.matched = st.matched := rfl
@[simp] theorem Status.locked_lockErr : st.locked.lockErr = true := rfl
@[simp] theorem Status.locked_err : st.locked.err = st.err := rfl

@[simp] theorem Status.acknowledged_busy (v : Word) : (st.acknowledged v).busy = st.busy := rfl
@[simp] theorem Status.acknowledged_done (v : Word) : (st.acknowledged v).done = (st.done && !v.getLsbD 1) := rfl
@[simp] theorem Status.acknowledged_matched (v : Word) : (st.acknowledged v).matched = st.matched := rfl
@[simp] theorem Status.acknowledged_lockErr (v : Word) : (st.acknowledged v).lockErr = (st.lockErr && !v.getLsbD 3) := rfl
@[simp] theorem Status.acknowledged_err (v : Word) : (st.acknowledged v).err = st.err := rfl

/-! ### `State.issue` -/

@[simp] theorem State.issue_ckey (w : Word) : (s.issue w).ckey = s.ckey := rfl
@[simp] theorem State.issue_mkey (w : Word) : (s.issue w).mkey = s.mkey := rfl
@[simp] theorem State.issue_iv (w : Word) : (s.issue w).iv = s.iv := rfl
@[simp] theorem State.issue_tagi (w : Word) : (s.issue w).tagi = s.tagi := rfl
@[simp] theorem State.issue_tago (w : Word) : (s.issue w).tago = Vector.replicate 8 0#8 := rfl
@[simp] theorem State.issue_ckeyLen (w : Word) : (s.issue w).ckeyLen = s.ckeyLen := rfl
@[simp] theorem State.issue_mkeyLen (w : Word) : (s.issue w).mkeyLen = s.mkeyLen := rfl
@[simp] theorem State.issue_ivLen (w : Word) : (s.issue w).ivLen = s.ivLen := rfl
@[simp] theorem State.issue_tagiLen (w : Word) : (s.issue w).tagiLen = s.tagiLen := rfl
@[simp] theorem State.issue_srcAddr (w : Word) : (s.issue w).srcAddr = s.srcAddr := rfl
@[simp] theorem State.issue_srcLen (w : Word) : (s.issue w).srcLen = s.srcLen := rfl
@[simp] theorem State.issue_dstAddr (w : Word) : (s.issue w).dstAddr = s.dstAddr := rfl
@[simp] theorem State.issue_dstLen (w : Word) : (s.issue w).dstLen = 0#32 := rfl
@[simp] theorem State.issue_mem (w : Word) : (s.issue w).mem = s.mem := rfl
@[simp] theorem State.issue_status (w : Word) : (s.issue w).status = s.status.issued := rfl
@[simp] theorem State.issue_ctrl (w : Word) : (s.issue w).ctrl = s.ctrl := rfl
@[simp] theorem State.issue_memSize (w : Word) : (s.issue w).memSize = s.memSize := rfl
@[simp] theorem State.issue_lcmd (w : Word) : (s.issue w).lcmd = w := rfl
@[simp] theorem State.issue_work (w : Word) : (s.issue w).work = Work.empty := rfl
@[simp] theorem State.issue_trace (w : Word) : (s.issue w).trace = [] := rfl
@[simp] theorem State.issue_resp (w : Word) : (s.issue w).resp = s.resp := rfl
@[simp] theorem State.issue_agenda (w : Word) : (s.issue w).agenda = s.agenda := rfl

/-! ### `State.recorded` -/

@[simp] theorem State.recorded_ckey (ps : List Phase) (k : Work) : (s.recorded ps k).ckey = s.ckey := rfl
@[simp] theorem State.recorded_mkey (ps : List Phase) (k : Work) : (s.recorded ps k).mkey = s.mkey := rfl
@[simp] theorem State.recorded_iv (ps : List Phase) (k : Work) : (s.recorded ps k).iv = s.iv := rfl
@[simp] theorem State.recorded_tagi (ps : List Phase) (k : Work) : (s.recorded ps k).tagi = s.tagi := rfl
@[simp] theorem State.recorded_tago (ps : List Phase) (k : Work) : (s.recorded ps k).tago = s.tago := rfl
@[simp] theorem State.recorded_ckeyLen (ps : List Phase) (k : Work) : (s.recorded ps k).ckeyLen = s.ckeyLen := rfl
@[simp] theorem State.recorded_mkeyLen (ps : List Phase) (k : Work) : (s.recorded ps k).mkeyLen = s.mkeyLen := rfl
@[simp] theorem State.recorded_ivLen (ps : List Phase) (k : Work) : (s.recorded ps k).ivLen = s.ivLen := rfl
@[simp] theorem State.recorded_tagiLen (ps : List Phase) (k : Work) : (s.recorded ps k).tagiLen = s.tagiLen := rfl
@[simp] theorem State.recorded_srcAddr (ps : List Phase) (k : Work) : (s.recorded ps k).srcAddr = s.srcAddr := rfl
@[simp] theorem State.recorded_srcLen (ps : List Phase) (k : Work) : (s.recorded ps k).srcLen = s.srcLen := rfl
@[simp] theorem State.recorded_dstAddr (ps : List Phase) (k : Work) : (s.recorded ps k).dstAddr = s.dstAddr := rfl
@[simp] theorem State.recorded_dstLen (ps : List Phase) (k : Work) : (s.recorded ps k).dstLen = s.dstLen := rfl
@[simp] theorem State.recorded_mem (ps : List Phase) (k : Work) : (s.recorded ps k).mem = s.mem := rfl
@[simp] theorem State.recorded_status (ps : List Phase) (k : Work) : (s.recorded ps k).status = s.status := rfl
@[simp] theorem State.recorded_ctrl (ps : List Phase) (k : Work) : (s.recorded ps k).ctrl = s.ctrl := rfl
@[simp] theorem State.recorded_memSize (ps : List Phase) (k : Work) : (s.recorded ps k).memSize = s.memSize := rfl
@[simp] theorem State.recorded_lcmd (ps : List Phase) (k : Work) : (s.recorded ps k).lcmd = s.lcmd := rfl
@[simp] theorem State.recorded_work (ps : List Phase) (k : Work) : (s.recorded ps k).work = k := rfl
@[simp] theorem State.recorded_trace (ps : List Phase) (k : Work) : (s.recorded ps k).trace = s.trace ++ ps := rfl
@[simp] theorem State.recorded_resp (ps : List Phase) (k : Work) : (s.recorded ps k).resp = s.resp := rfl
@[simp] theorem State.recorded_agenda (ps : List Phase) (k : Work) : (s.recorded ps k).agenda = s.agenda := rfl

/-! ### `State.wiped` -/

@[simp] theorem State.wiped_ckey : s.wiped.ckey = Vector.replicate 32 0#8 := rfl
@[simp] theorem State.wiped_mkey : s.wiped.mkey = Vector.replicate 32 0#8 := rfl
@[simp] theorem State.wiped_iv : s.wiped.iv = Vector.replicate 16 0#8 := rfl
@[simp] theorem State.wiped_tagi : s.wiped.tagi = Vector.replicate 8 0#8 := rfl
@[simp] theorem State.wiped_tago : s.wiped.tago = Vector.replicate 8 0#8 := rfl
@[simp] theorem State.wiped_ckeyLen : s.wiped.ckeyLen = 0#32 := rfl
@[simp] theorem State.wiped_mkeyLen : s.wiped.mkeyLen = 0#32 := rfl
@[simp] theorem State.wiped_ivLen : s.wiped.ivLen = 0#32 := rfl
@[simp] theorem State.wiped_tagiLen : s.wiped.tagiLen = 0#32 := rfl
@[simp] theorem State.wiped_srcAddr : s.wiped.srcAddr = 0#32 := rfl
@[simp] theorem State.wiped_srcLen : s.wiped.srcLen = 0#32 := rfl
@[simp] theorem State.wiped_dstAddr : s.wiped.dstAddr = 0#32 := rfl
@[simp] theorem State.wiped_dstLen : s.wiped.dstLen = 0#32 := rfl
@[simp] theorem State.wiped_mem : s.wiped.mem = [] := rfl
@[simp] theorem State.wiped_status : s.wiped.status = s.status := rfl
@[simp] theorem State.wiped_ctrl : s.wiped.ctrl = s.ctrl := rfl
@[simp] theorem State.wiped_memSize : s.wiped.memSize = s.memSize := rfl
@[simp] theorem State.wiped_lcmd : s.wiped.lcmd = s.lcmd := rfl
@[simp] theorem State.wiped_work : s.wiped.work = Work.empty := rfl
@[simp] theorem State.wiped_trace : s.wiped.trace = s.trace := rfl
@[simp] theorem State.wiped_resp : s.wiped.resp = s.resp := rfl
@[simp] theorem State.wiped_agenda : s.wiped.agenda = s.agenda := rfl

/-! ### `State.errorCompletion` -/

@[simp] theorem State.errorCompletion_ckey (e : ErrorKind) : (s.errorCompletion e).ckey = s.ckey := rfl
@[simp] theorem State.errorCompletion_mkey (e : ErrorKind) : (s.errorCompletion e).mkey = s.mkey := rfl
@[simp] theorem State.errorCompletion_iv (e : ErrorKind) : (s.errorCompletion e).iv = s.iv := rfl
@[simp] theorem State.errorCompletion_tagi (e : ErrorKind) : (s.errorCompletion e).tagi = s.tagi := rfl
@[simp] theorem State.errorCompletion_tago (e : ErrorKind) : (s.errorCompletion e).tago = s.tago := rfl
@[simp] theorem State.errorCompletion_ckeyLen (e : ErrorKind) : (s.errorCompletion e).ckeyLen = s.ckeyLen := rfl
@[simp] theorem State.errorCompletion_mkeyLen (e : ErrorKind) : (s.errorCompletion e).mkeyLen = s.mkeyLen := rfl
@[simp] theorem State.errorCompletion_ivLen (e : ErrorKind) : (s.errorCompletion e).ivLen = s.ivLen := rfl
@[simp] theorem State.errorCompletion_tagiLen (e : ErrorKind) : (s.errorCompletion e).tagiLen = s.tagiLen := rfl
@[simp] theorem State.errorCompletion_srcAddr (e : ErrorKind) : (s.errorCompletion e).srcAddr = s.srcAddr := rfl
@[simp] theorem State.errorCompletion_srcLen (e : ErrorKind) : (s.errorCompletion e).srcLen = s.srcLen := rfl
@[simp] theorem State.errorCompletion_dstAddr (e : ErrorKind) : (s.errorCompletion e).dstAddr = s.dstAddr := rfl
@[simp] theorem State.errorCompletion_dstLen (e : ErrorKind) : (s.errorCompletion e).dstLen = s.dstLen := rfl
@[simp] theorem State.errorCompletion_mem (e : ErrorKind) : (s.errorCompletion e).mem = s.mem := rfl
@[simp] theorem State.errorCompletion_status (e : ErrorKind) : (s.errorCompletion e).status = s.status.failed e := rfl
@[simp] theorem State.errorCompletion_ctrl (e : ErrorKind) : (s.errorCompletion e).ctrl = s.ctrl := rfl
@[simp] theorem State.errorCompletion_memSize (e : ErrorKind) : (s.errorCompletion e).memSize = s.memSize := rfl
@[simp] theorem State.errorCompletion_lcmd (e : ErrorKind) : (s.errorCompletion e).lcmd = s.lcmd := rfl
@[simp] theorem State.errorCompletion_work (e : ErrorKind) : (s.errorCompletion e).work = s.work := rfl
@[simp] theorem State.errorCompletion_trace (e : ErrorKind) : (s.errorCompletion e).trace = s.trace := rfl
@[simp] theorem State.errorCompletion_resp (e : ErrorKind) : (s.errorCompletion e).resp = s.resp := rfl
@[simp] theorem State.errorCompletion_agenda (e : ErrorKind) : (s.errorCompletion e).agenda = s.agenda := rfl

/-! ### `State.acknowledge` -/

@[simp] theorem State.acknowledge_ckey (v : Word) : (s.acknowledge v).ckey = s.ckey := rfl
@[simp] theorem State.acknowledge_mkey (v : Word) : (s.acknowledge v).mkey = s.mkey := rfl
@[simp] theorem State.acknowledge_iv (v : Word) : (s.acknowledge v).iv = s.iv := rfl
@[simp] theorem State.acknowledge_tagi (v : Word) : (s.acknowledge v).tagi = s.tagi := rfl
@[simp] theorem State.acknowledge_tago (v : Word) : (s.acknowledge v).tago = s.tago := rfl
@[simp] theorem State.acknowledge_ckeyLen (v : Word) : (s.acknowledge v).ckeyLen = s.ckeyLen := rfl
@[simp] theorem State.acknowledge_mkeyLen (v : Word) : (s.acknowledge v).mkeyLen = s.mkeyLen := rfl
@[simp] theorem State.acknowledge_ivLen (v : Word) : (s.acknowledge v).ivLen = s.ivLen := rfl
@[simp] theorem State.acknowledge_tagiLen (v : Word) : (s.acknowledge v).tagiLen = s.tagiLen := rfl
@[simp] theorem State.acknowledge_srcAddr (v : Word) : (s.acknowledge v).srcAddr = s.srcAddr := rfl
@[simp] theorem State.acknowledge_srcLen (v : Word) : (s.acknowledge v).srcLen = s.srcLen := rfl
@[simp] theorem State.acknowledge_dstAddr (v : Word) : (s.acknowledge v).dstAddr = s.dstAddr := rfl
@[simp] theorem State.acknowledge_dstLen (v : Word) : (s.acknowledge v).dstLen = s.dstLen := rfl
@[simp] theorem State.acknowledge_mem (v : Word) : (s.acknowledge v).mem = s.mem := rfl
@[simp] theorem State.acknowledge_status (v : Word) : (s.acknowledge v).status = s.status.acknowledged v := rfl
@[simp] theorem State.acknowledge_ctrl (v : Word) : (s.acknowledge v).ctrl = s.ctrl := rfl
@[simp] theorem State.acknowledge_memSize (v : Word) : (s.acknowledge v).memSize = s.memSize := rfl
@[simp] theorem State.acknowledge_lcmd (v : Word) : (s.acknowledge v).lcmd = s.lcmd := rfl
@[simp] theorem State.acknowledge_work (v : Word) : (s.acknowledge v).work = s.work := rfl
@[simp] theorem State.acknowledge_trace (v : Word) : (s.acknowledge v).trace = s.trace := rfl
@[simp] theorem State.acknowledge_resp (v : Word) : (s.acknowledge v).resp = s.resp := rfl
@[simp] theorem State.acknowledge_agenda (v : Word) : (s.acknowledge v).agenda = s.agenda := rfl

/-! ### `State.commitTag` -/

@[simp] theorem State.commitTag_ckey (tag : Option (Vector Byte 8)) : (s.commitTag tag).ckey = s.ckey :=
  by cases tag <;> rfl
@[simp] theorem State.commitTag_mkey (tag : Option (Vector Byte 8)) : (s.commitTag tag).mkey = s.mkey :=
  by cases tag <;> rfl
@[simp] theorem State.commitTag_iv (tag : Option (Vector Byte 8)) : (s.commitTag tag).iv = s.iv := by cases tag <;> rfl
@[simp] theorem State.commitTag_tagi (tag : Option (Vector Byte 8)) : (s.commitTag tag).tagi = s.tagi :=
  by cases tag <;> rfl
@[simp] theorem State.commitTag_tago (tag : Option (Vector Byte 8)) : (s.commitTag tag).tago = tag.getD s.tago :=
  by cases tag <;> rfl
@[simp] theorem State.commitTag_ckeyLen (tag : Option (Vector Byte 8)) : (s.commitTag tag).ckeyLen = s.ckeyLen :=
  by cases tag <;> rfl
@[simp] theorem State.commitTag_mkeyLen (tag : Option (Vector Byte 8)) : (s.commitTag tag).mkeyLen = s.mkeyLen :=
  by cases tag <;> rfl
@[simp] theorem State.commitTag_ivLen (tag : Option (Vector Byte 8)) : (s.commitTag tag).ivLen = s.ivLen :=
  by cases tag <;> rfl
@[simp] theorem State.commitTag_tagiLen (tag : Option (Vector Byte 8)) : (s.commitTag tag).tagiLen = s.tagiLen :=
  by cases tag <;> rfl
@[simp] theorem State.commitTag_srcAddr (tag : Option (Vector Byte 8)) : (s.commitTag tag).srcAddr = s.srcAddr :=
  by cases tag <;> rfl
@[simp] theorem State.commitTag_srcLen (tag : Option (Vector Byte 8)) : (s.commitTag tag).srcLen = s.srcLen :=
  by cases tag <;> rfl
@[simp] theorem State.commitTag_dstAddr (tag : Option (Vector Byte 8)) : (s.commitTag tag).dstAddr = s.dstAddr :=
  by cases tag <;> rfl
@[simp] theorem State.commitTag_dstLen (tag : Option (Vector Byte 8)) : (s.commitTag tag).dstLen = s.dstLen :=
  by cases tag <;> rfl
@[simp] theorem State.commitTag_mem (tag : Option (Vector Byte 8)) : (s.commitTag tag).mem = s.mem :=
  by cases tag <;> rfl
@[simp] theorem State.commitTag_status (tag : Option (Vector Byte 8)) : (s.commitTag tag).status = s.status :=
  by cases tag <;> rfl
@[simp] theorem State.commitTag_ctrl (tag : Option (Vector Byte 8)) : (s.commitTag tag).ctrl = s.ctrl :=
  by cases tag <;> rfl
@[simp] theorem State.commitTag_memSize (tag : Option (Vector Byte 8)) : (s.commitTag tag).memSize = s.memSize :=
  by cases tag <;> rfl
@[simp] theorem State.commitTag_lcmd (tag : Option (Vector Byte 8)) : (s.commitTag tag).lcmd = s.lcmd :=
  by cases tag <;> rfl
@[simp] theorem State.commitTag_work (tag : Option (Vector Byte 8)) : (s.commitTag tag).work = s.work :=
  by cases tag <;> rfl
@[simp] theorem State.commitTag_trace (tag : Option (Vector Byte 8)) : (s.commitTag tag).trace = s.trace :=
  by cases tag <;> rfl
@[simp] theorem State.commitTag_resp (tag : Option (Vector Byte 8)) : (s.commitTag tag).resp = s.resp :=
  by cases tag <;> rfl
@[simp] theorem State.commitTag_agenda (tag : Option (Vector Byte 8)) : (s.commitTag tag).agenda = s.agenda :=
  by cases tag <;> rfl

/-! ### `State.respond` -/

@[simp] theorem State.respond_ckey (r : BusResponse) : (s.respond r).ckey = s.ckey := rfl
@[simp] theorem State.respond_mkey (r : BusResponse) : (s.respond r).mkey = s.mkey := rfl
@[simp] theorem State.respond_iv (r : BusResponse) : (s.respond r).iv = s.iv := rfl
@[simp] theorem State.respond_tagi (r : BusResponse) : (s.respond r).tagi = s.tagi := rfl
@[simp] theorem State.respond_tago (r : BusResponse) : (s.respond r).tago = s.tago := rfl
@[simp] theorem State.respond_ckeyLen (r : BusResponse) : (s.respond r).ckeyLen = s.ckeyLen := rfl
@[simp] theorem State.respond_mkeyLen (r : BusResponse) : (s.respond r).mkeyLen = s.mkeyLen := rfl
@[simp] theorem State.respond_ivLen (r : BusResponse) : (s.respond r).ivLen = s.ivLen := rfl
@[simp] theorem State.respond_tagiLen (r : BusResponse) : (s.respond r).tagiLen = s.tagiLen := rfl
@[simp] theorem State.respond_srcAddr (r : BusResponse) : (s.respond r).srcAddr = s.srcAddr := rfl
@[simp] theorem State.respond_srcLen (r : BusResponse) : (s.respond r).srcLen = s.srcLen := rfl
@[simp] theorem State.respond_dstAddr (r : BusResponse) : (s.respond r).dstAddr = s.dstAddr := rfl
@[simp] theorem State.respond_dstLen (r : BusResponse) : (s.respond r).dstLen = s.dstLen := rfl
@[simp] theorem State.respond_mem (r : BusResponse) : (s.respond r).mem = s.mem := rfl
@[simp] theorem State.respond_status (r : BusResponse) : (s.respond r).status = s.status := rfl
@[simp] theorem State.respond_ctrl (r : BusResponse) : (s.respond r).ctrl = s.ctrl := rfl
@[simp] theorem State.respond_memSize (r : BusResponse) : (s.respond r).memSize = s.memSize := rfl
@[simp] theorem State.respond_lcmd (r : BusResponse) : (s.respond r).lcmd = s.lcmd := rfl
@[simp] theorem State.respond_work (r : BusResponse) : (s.respond r).work = s.work := rfl
@[simp] theorem State.respond_trace (r : BusResponse) : (s.respond r).trace = s.trace := rfl
@[simp] theorem State.respond_resp (r : BusResponse) : (s.respond r).resp = r := rfl
@[simp] theorem State.respond_agenda (r : BusResponse) : (s.respond r).agenda = s.agenda := rfl

/-! ### `State.resetStep` -/

@[simp] theorem State.resetStep_ckey (cells : List Host.Cell) (w : Word) : (s.resetStep cells w).ckey = Vector.replicate 32 0#8 :=
  rfl
@[simp] theorem State.resetStep_mkey (cells : List Host.Cell) (w : Word) : (s.resetStep cells w).mkey = Vector.replicate 32 0#8 :=
  rfl
@[simp] theorem State.resetStep_iv (cells : List Host.Cell) (w : Word) : (s.resetStep cells w).iv = Vector.replicate 16 0#8 :=
  rfl
@[simp] theorem State.resetStep_tagi (cells : List Host.Cell) (w : Word) : (s.resetStep cells w).tagi = Vector.replicate 8 0#8 :=
  rfl
@[simp] theorem State.resetStep_tago (cells : List Host.Cell) (w : Word) : (s.resetStep cells w).tago = Vector.replicate 8 0#8 :=
  rfl
@[simp] theorem State.resetStep_ckeyLen (cells : List Host.Cell) (w : Word) : (s.resetStep cells w).ckeyLen = 0#32 :=
  rfl
@[simp] theorem State.resetStep_mkeyLen (cells : List Host.Cell) (w : Word) : (s.resetStep cells w).mkeyLen = 0#32 :=
  rfl
@[simp] theorem State.resetStep_ivLen (cells : List Host.Cell) (w : Word) : (s.resetStep cells w).ivLen = 0#32 := rfl
@[simp] theorem State.resetStep_tagiLen (cells : List Host.Cell) (w : Word) : (s.resetStep cells w).tagiLen = 0#32 :=
  rfl
@[simp] theorem State.resetStep_srcAddr (cells : List Host.Cell) (w : Word) : (s.resetStep cells w).srcAddr = 0#32 :=
  rfl
@[simp] theorem State.resetStep_srcLen (cells : List Host.Cell) (w : Word) : (s.resetStep cells w).srcLen = 0#32 := rfl
@[simp] theorem State.resetStep_dstAddr (cells : List Host.Cell) (w : Word) : (s.resetStep cells w).dstAddr = 0#32 :=
  rfl
@[simp] theorem State.resetStep_dstLen (cells : List Host.Cell) (w : Word) : (s.resetStep cells w).dstLen = 0#32 := rfl
@[simp] theorem State.resetStep_mem (cells : List Host.Cell) (w : Word) : (s.resetStep cells w).mem = Memory.load s.memBytes cells :=
  rfl
@[simp] theorem State.resetStep_status (cells : List Host.Cell) (w : Word) : (s.resetStep cells w).status = State.reset.status :=
  rfl
@[simp] theorem State.resetStep_ctrl (cells : List Host.Cell) (w : Word) : (s.resetStep cells w).ctrl = { ie := false } :=
  rfl
@[simp] theorem State.resetStep_memSize (cells : List Host.Cell) (w : Word) : (s.resetStep cells w).memSize = s.memSize :=
  rfl
@[simp] theorem State.resetStep_lcmd (cells : List Host.Cell) (w : Word) : (s.resetStep cells w).lcmd = w := rfl
@[simp] theorem State.resetStep_work (cells : List Host.Cell) (w : Word) : (s.resetStep cells w).work = Work.empty :=
  rfl
@[simp] theorem State.resetStep_trace (cells : List Host.Cell) (w : Word) : (s.resetStep cells w).trace = [] := rfl
@[simp] theorem State.resetStep_resp (cells : List Host.Cell) (w : Word) : (s.resetStep cells w).resp = .idle := rfl
@[simp] theorem State.resetStep_agenda (cells : List Host.Cell) (w : Word) : (s.resetStep cells w).agenda = s.agenda :=
  rfl

/-! ### `State.writeWindow` -/

@[simp] theorem State.writeWindow_ckey (a n : Nat) (v : Word) : (s.writeWindow a n v).ckey = s.ckey := rfl
@[simp] theorem State.writeWindow_mkey (a n : Nat) (v : Word) : (s.writeWindow a n v).mkey = s.mkey := rfl
@[simp] theorem State.writeWindow_iv (a n : Nat) (v : Word) : (s.writeWindow a n v).iv = s.iv := rfl
@[simp] theorem State.writeWindow_tagi (a n : Nat) (v : Word) : (s.writeWindow a n v).tagi = s.tagi := rfl
@[simp] theorem State.writeWindow_tago (a n : Nat) (v : Word) : (s.writeWindow a n v).tago = s.tago := rfl
@[simp] theorem State.writeWindow_ckeyLen (a n : Nat) (v : Word) : (s.writeWindow a n v).ckeyLen = s.ckeyLen := rfl
@[simp] theorem State.writeWindow_mkeyLen (a n : Nat) (v : Word) : (s.writeWindow a n v).mkeyLen = s.mkeyLen := rfl
@[simp] theorem State.writeWindow_ivLen (a n : Nat) (v : Word) : (s.writeWindow a n v).ivLen = s.ivLen := rfl
@[simp] theorem State.writeWindow_tagiLen (a n : Nat) (v : Word) : (s.writeWindow a n v).tagiLen = s.tagiLen := rfl
@[simp] theorem State.writeWindow_srcAddr (a n : Nat) (v : Word) : (s.writeWindow a n v).srcAddr = s.srcAddr := rfl
@[simp] theorem State.writeWindow_srcLen (a n : Nat) (v : Word) : (s.writeWindow a n v).srcLen = s.srcLen := rfl
@[simp] theorem State.writeWindow_dstAddr (a n : Nat) (v : Word) : (s.writeWindow a n v).dstAddr = s.dstAddr := rfl
@[simp] theorem State.writeWindow_dstLen (a n : Nat) (v : Word) : (s.writeWindow a n v).dstLen = s.dstLen := rfl
@[simp] theorem State.writeWindow_mem (a n : Nat) (v : Word) : (s.writeWindow a n v).mem = Memory.writeN s.mem a (leBytes v n) :=
  rfl
@[simp] theorem State.writeWindow_status (a n : Nat) (v : Word) : (s.writeWindow a n v).status = s.status := rfl
@[simp] theorem State.writeWindow_ctrl (a n : Nat) (v : Word) : (s.writeWindow a n v).ctrl = s.ctrl := rfl
@[simp] theorem State.writeWindow_memSize (a n : Nat) (v : Word) : (s.writeWindow a n v).memSize = s.memSize := rfl
@[simp] theorem State.writeWindow_lcmd (a n : Nat) (v : Word) : (s.writeWindow a n v).lcmd = s.lcmd := rfl
@[simp] theorem State.writeWindow_work (a n : Nat) (v : Word) : (s.writeWindow a n v).work = s.work := rfl
@[simp] theorem State.writeWindow_trace (a n : Nat) (v : Word) : (s.writeWindow a n v).trace = s.trace := rfl
@[simp] theorem State.writeWindow_resp (a n : Nat) (v : Word) : (s.writeWindow a n v).resp = s.resp := rfl
@[simp] theorem State.writeWindow_agenda (a n : Nat) (v : Word) : (s.writeWindow a n v).agenda = s.agenda := rfl

/-! ### Derived views -/

@[simp] theorem State.memBytes_issue (w : Word) : (s.issue w).memBytes = s.memBytes := rfl
@[simp] theorem State.memBytes_recorded (ps : List Phase) (k : Work) : (s.recorded ps k).memBytes = s.memBytes := rfl
@[simp] theorem State.memBytes_wiped : s.wiped.memBytes = s.memBytes := rfl
@[simp] theorem State.memBytes_resetStep (cells : List Host.Cell) (w : Word) :
    (s.resetStep cells w).memBytes = s.memBytes := rfl

/-- `irq` of a state depends on DONE and IE alone (60_exceptions.md R250). -/
theorem State.irq_eq : s.irq = (s.status.done && s.ctrl.ie) := rfl

end Sys2Proof.Machine
end

