-- ==== Sys2Proof/Laws/Bus.lean ====
section
/-! SUPPORT. The host interface: what an access reaches (20_memory.md R62, R65, R66), what a transaction can do, and the
byte lanes of words (R63, R64). -/

namespace Sys2Proof.Machine

/-! ### What an access reaches -/

/-- The mapped register offsets are 4-byte aligned and lie below the window (20_memory.md R62). -/
theorem regMap_offsets : ∀ entry ∈ regMap, entry.1 < windowBase ∧ entry.1 % 4 = 0 := by
  decide

theorem mem_of_lookup {off : Nat} {r : Reg} {l : List (Nat × Reg)} (h : l.lookup off = some r) : (off, r) ∈ l := by
  induction l with
  | nil => simp at h
  | cons c l ih =>
    obtain ⟨k, x⟩ := c
    rw [List.lookup_cons] at h
    split at h
    · rename_i hk
      rw [beq_iff_eq] at hk
      cases h; simp [hk]
    · exact List.mem_cons_of_mem _ (ih h)

/-- A 4-byte access at a mapped offset reaches its register. -/
theorem resolve_register {off : Nat} {r : Reg} (n : Nat) (h : regMap.lookup off = some r) :
    resolve n off 4 = some (.reg r) := by
  have ho := regMap_offsets _ (mem_of_lookup h)
  simp only at ho
  rw [resolve, if_pos ho.1, if_pos ⟨rfl, ho.2⟩, h]
  rfl

/-- An aligned access wholly inside the window reaches MEM. -/
theorem resolve_window {n a size : Nat} (hs : size = 1 ∨ size = 2 ∨ size = 4) (ha : a % size = 0)
    (h : a + size ≤ n) : resolve n (0x1000 + a) size = some (.mem a) := by
  have h1 : windowSizeOk size = true := by rcases hs with rfl | rfl | rfl <;> rfl
  have h2 : (0x1000 + a) % size = 0 := by rcases hs with rfl | rfl | rfl <;> omega
  rw [resolve, if_neg (by simp [windowBase]), if_pos ⟨h1, h2, by simp only [windowBase]; omega⟩]
  simp [windowBase]

/-- An access that reaches MEM is aligned and lies wholly inside it. -/
theorem resolve_mem {n off size a : Nat} (h : resolve n off size = some (.mem a)) :
    off = 0x1000 + a ∧ (size = 1 ∨ size = 2 ∨ size = 4) ∧ a % size = 0 ∧ a + size ≤ n := by
  unfold resolve at h
  split at h
  · split at h
    · cases hl : regMap.lookup off <;> simp [hl] at h
    · cases h
  · rename_i hw
    split at h
    · rename_i hc
      obtain ⟨h1, h2, h3⟩ := hc
      simp only [Option.some.injEq, Target.mem.injEq] at h
      simp only [windowBase] at hw h h3
      have hs : size = 1 ∨ size = 2 ∨ size = 4 := by simpa [windowSizeOk, or_assoc] using h1
      refine ⟨by omega, hs, ?_, by omega⟩
      rcases hs with rfl | rfl | rfl <;> omega
    · cases h

/-! ### What a transaction can do -/

/-- Everything a read can do: nothing but the answer. -/
theorem State.hostRead_cases (s : State) (off size : Nat) :
    (resolve s.memBytes off size = none ∧ s.hostRead off size = s.respond .busError) ∨
    (∃ r, resolve s.memBytes off size = some (.reg r) ∧ s.hostRead off size = s.respond (.data (s.readReg r))) ∨
    (∃ a, resolve s.memBytes off size = some (.mem a) ∧
      s.hostRead off size = s.respond (.data (s.readWindow a size))) := by
  rcases h : resolve s.memBytes off size with _ | ⟨r | a⟩ <;> simp [State.hostRead, h]

/-- Everything a write can do: a bus error, a drop, a write. -/
theorem State.hostWrite_cases (s : State) (off size : Nat) (v : Word) :
    (resolve s.memBytes off size = none ∧ s.hostWrite off size v = s.respond .busError) ∨
    (s.status.busy = true ∧ s.hostWrite off size v = { s with status := s.status.locked, resp := .ok }) ∨
    (∃ t, s.status.busy = false ∧ resolve s.memBytes off size = some t ∧
      s.hostWrite off size v = { s.writeTarget t size v with resp := .ok }) := by
  rcases h : resolve s.memBytes off size with _ | t
  · simp [State.hostWrite, h]
  · cases hb : s.status.busy
    · exact .inr (.inr ⟨t, rfl, rfl, by simp [State.hostWrite, h, hb, State.respond]⟩)
    · exact .inr (.inl ⟨rfl, by simp [State.hostWrite, h, hb, State.respond]⟩)

/-- A write that reaches its target while BUSY = 0. -/
theorem State.hostWrite_target {s : State} {off size : Nat} {t : Target} (v : Word)
    (h : resolve s.memBytes off size = some t) (hb : s.status.busy = false) :
    s.hostWrite off size v = { s.writeTarget t size v with resp := .ok } := by
  simp [State.hostWrite, h, hb, State.respond]

/-! ### Byte lanes -/

/-- The number a word of four bytes is (20_memory.md R64). -/
theorem leWord_toNat (b0 b1 b2 b3 : Byte) :
    (leWord b0 b1 b2 b3).toNat = b0.toNat + 2 ^ 8 * b1.toNat + 2 ^ 16 * b2.toNat + 2 ^ 24 * b3.toNat := by
  have lanes : ∀ {w : Nat} (x : BitVec w) (b : Byte), (x ++ b).toNat = b.toNat + 2 ^ 8 * x.toNat := fun x b => by
    rw [BitVec.toNat_append, Nat.shiftLeft_eq, Nat.mul_comm, ← Nat.two_pow_add_eq_or_of_lt b.isLt, Nat.add_comm]
  show (b3 ++ b2 ++ b1 ++ b0).toNat = _
  rw [lanes, lanes, lanes]
  omega

@[simp] theorem leBytes_length (v : Word) (n : Nat) : (leBytes v n).length = n := by
  simp [leBytes]

theorem leBytes_getD {n k : Nat} (v : Word) (h : k < n) : (leBytes v n).getD k 0#8 = v.extractLsb' (8 * k) 8 := by
  simp [leBytes, leByte, h]

/-- The bytes of a file after word `k` was written: its own four lanes, every other byte as before. -/
theorem setFileWord_get {n : Nat} (f : Vector Byte n) (k : Nat) (v : Word) (j : Nat) (h : j < n) :
    (setFileWord f k v)[j] = if j / 4 = k then v.extractLsb' (8 * (j % 4)) 8 else f[j] := by
  simp only [setFileWord, leByte, Vector.getElem_setIfInBounds]
  split
  · rw [if_pos (by omega)]; congr 1; omega
  · split
    · rw [if_pos (by omega)]; congr 1; omega
    · split
      · rw [if_pos (by omega)]; congr 1; omega
      · split
        · rw [if_pos (by omega)]; congr 1; omega
        · rw [if_neg (by omega)]

end Sys2Proof.Machine
end

