-- ==== Sys2Proof/Laws/Units.lean ====
section
/-! SUPPORT. The functional units as functions of byte strings: how strings fall into blocks, and the lengths of every
result. -/

namespace Sys2Proof.Machine

/-! ### Blocks -/

@[simp] theorem blocksOf_nil (size : Nat) : blocksOf size [] = [] := by
  simp [blocksOf, takeBlocks]

/-- A whole block in front of a string is its first block. -/
theorem blocksOf_append {size : Nat} {b : List Byte} (hs : 0 < size) (hb : b.length = size) (rest : List Byte) :
    blocksOf size (b ++ rest) = b :: blocksOf size rest := by
  have h : (b ++ rest).length / size = rest.length / size + 1 := by
    rw [List.length_append, hb, Nat.add_comm, Nat.add_div_right _ hs]
  rw [blocksOf, h, takeBlocks, List.take_left' hb, List.drop_left' hb, blocksOf]

/-- Induction over a string of whole 16-byte blocks. -/
theorem blocks_induction {motive : List Byte → Prop} (nil : motive [])
    (block : ∀ b rest : List Byte, b.length = 16 → rest.length % 16 = 0 → motive rest → motive (b ++ rest))
    {l : List Byte} (h : l.length % 16 = 0) : motive l := by
  obtain ⟨n, hn⟩ : ∃ n, l.length = 16 * n := ⟨l.length / 16, by omega⟩
  clear h
  induction n generalizing l with
  | zero =>
    obtain rfl := List.length_eq_zero_iff.1 (by simpa using hn)
    exact nil
  | succ n ih =>
    have hd : (l.drop 16).length = 16 * n := by rw [List.length_drop]; omega
    rw [← List.take_append_drop 16 l]
    exact block _ _ (by rw [List.length_take]; omega) (by omega) (ih hd)

@[simp] theorem xorBytes_length (a b : List Byte) : (xorBytes a b).length = min a.length b.length := by
  simp [xorBytes]

/-! ### Lengths -/

@[simp] theorem AesState.block_length (s : AesState) : s.block.length = 16 := by
  simp [AesState.block, AesColumn.bytes]

@[simp] theorem blockEnc_length (k b : List Byte) : (blockEnc k b).length = 16 := by
  simp [blockEnc]

@[simp] theorem blockDec_length (k b : List Byte) : (blockDec k b).length = 16 := by
  simp [blockDec]

@[simp] theorem cbcEnc_nil (k iv : List Byte) : cbcEnc k iv [] = [] := by
  simp [cbcEnc, cbcEncBlocks]

@[simp] theorem cbcDec_nil (k iv : List Byte) : cbcDec k iv [] = [] := by
  simp [cbcDec, cbcDecBlocks]

/-- One block of the chained mode (43_cbc.md R145). -/
theorem cbcEnc_append {b : List Byte} (hb : b.length = 16) (k iv rest : List Byte) :
    cbcEnc k iv (b ++ rest) = blockEnc k (xorBytes b iv) ++ cbcEnc k (blockEnc k (xorBytes b iv)) rest := by
  simp [cbcEnc, blocksOf_append (by omega : 0 < 16) hb, cbcEncBlocks]

/-- One block of the inverse mode (43_cbc.md R146). -/
theorem cbcDec_append {b : List Byte} (hb : b.length = 16) (k iv rest : List Byte) :
    cbcDec k iv (b ++ rest) = xorBytes (blockDec k b) iv ++ cbcDec k b rest := by
  simp [cbcDec, blocksOf_append (by omega : 0 < 16) hb, cbcDecBlocks]

/-- ENCRYPT keeps the length (43_cbc.md R150). -/
theorem cbcEnc_length (k iv : List Byte) {p : List Byte} (h : p.length % 16 = 0) :
    (cbcEnc k iv p).length = p.length := by
  refine blocks_induction (motive := fun p => ∀ iv, (cbcEnc k iv p).length = p.length) ?_ ?_ h iv
  · simp
  · intro b rest hb _ ih iv
    simp [cbcEnc_append hb, ih, hb]

/-- DECRYPT keeps the length (43_cbc.md R146). -/
theorem cbcDec_length (k : List Byte) {iv c : List Byte} (hiv : iv.length = 16) (h : c.length % 16 = 0) :
    (cbcDec k iv c).length = c.length := by
  refine blocks_induction (motive := fun c => ∀ iv : List Byte, iv.length = 16 → (cbcDec k iv c).length = c.length)
    ?_ ?_ h iv hiv
  · simp
  · intro b rest hb _ ih iv hiv
    simp [cbcDec_append hb, ih b hb, hb, hiv]

/-- The padded length (42_padding.md R135). -/
theorem pad_length (d : List Byte) : (pad d).length = 16 * (d.length / 16 + 1) := by
  simp only [pad, List.length_append, List.length_replicate, padCount]
  omega

/-- An unpadded string is shorter by 1 to 16 bytes (42_padding.md R136). -/
theorem unpad_length {d x : List Byte} (h : unpad d = some x) : x.length < d.length ∧ d.length ≤ x.length + 16 := by
  simp only [unpad] at h
  split at h
  · cases h
  · split at h
    · cases h
    · split at h
      · cases h
      · split at h
        · cases h; rw [List.length_take]; omega
        · cases h

theorem ShaState.bytes_length (s : ShaState) : s.bytes.length = 32 := by
  simp [ShaState.bytes, beBytes]

@[simp] theorem sha256_length (m : List Byte) : (sha256 m).length = 32 :=
  ShaState.bytes_length _

@[simp] theorem hmacSha256_length (k m : List Byte) : (hmacSha256 k m).length = 32 :=
  sha256_length _

@[simp] theorem mac_length (k d : List Byte) : (mac k d).length = 8 := by
  simp [mac]

/-- A file holds a string of its own length. -/
theorem fileOfBytes_toList {n : Nat} {l : List Byte} (h : l.length = n) : (fileOfBytes n l).toList = l := by
  subst h
  apply List.ext_getElem
  · simp [fileOfBytes]
  · intro i h1 h2
    simp [fileOfBytes]

/-- The ciphertext of an envelope has the padded length (45_envelope.md R166). -/
theorem sealedText_length (o : EnvelopeParams) (pt : List Byte) :
    (sealedText o pt).length = 16 * (pt.length / 16 + 1) := by
  rw [sealedText, cbcEnc_length _ _ (by rw [pad_length]; omega), pad_length]

end Sys2Proof.Machine
end

