-- ==== Sys2Proof/Laws/Ops.lean ====
section
/-! SUPPORT. What each shared operation can do, said once: the address check, the commit, the completion, and one view
of all fourteen commands (`exec_eq`). -/

namespace Sys2Proof.Machine

/-! ### The address check (40_lifecycle.md R116) -/

theorem State.sourceFits_iff (s : State) (i : Instr) :
    s.sourceFits i = true ↔ (usesSource i = true → s.SourceInMem) := by
  rw [State.sourceFits, Bool.or_eq_true, decide_eq_true_iff, Bool.not_eq_true', imp_iff_not_or, Bool.not_eq_true]
  rfl

theorem State.outputFits_iff (s : State) (i : Instr) :
    s.outputFits i = true ↔ ∀ n, outMax i s.srcLen.toNat = some n → s.RoomFor n := by
  simp only [State.outputFits]
  split <;> rename_i h
  · simp [h]
  · rw [decide_eq_true_iff]
    exact ⟨fun hn n e => by rw [h] at e; cases e; exact hn, fun hn => hn _ h⟩

/-- The check passes exactly where every region the command may touch lies in MEM. -/
theorem State.addressOk_iff (s : State) (i : Instr) :
    s.addressOk i = true ↔
      (usesSource i = true → s.SourceInMem) ∧ ∀ n, outMax i s.srcLen.toNat = some n → s.RoomFor n := by
  rw [State.addressOk, Bool.and_eq_true, s.sourceFits_iff, s.outputFits_iff]

theorem State.memRead_source {s : State} (h : s.SourceInMem) :
    s.memRead s.srcAddr.toNat s.srcLen.toNat = some s.source := by
  exact if_pos h

@[simp] theorem State.source_length (s : State) : s.source.length = s.srcLen.toNat := by
  simp [State.source]

/-- A command over the source: the check, then the body over the source byte string. It never stops. -/
theorem State.completeOver_eq {s : State} {i : Instr} (hi : usesSource i = true) (body : List Byte → CommandRun) :
    s.completeOver i body =
      if s.addressOk i then s.complete (body s.source) else .next (s.errorCompletion .addressError) := by
  rw [State.completeOver]
  split
  · rename_i h
    rw [s.memRead_source (((s.addressOk_iff i).1 h).1 hi)]
  · rfl

/-! ### Commit and completion (40_lifecycle.md R114, R117) -/

/-- A commit with an output byte string that fits. -/
theorem State.commit_output {s : State} {out : List Byte} {tag : Option (Vector Byte 8)} {m : Bool}
    (h : s.dstAddr.toNat + out.length ≤ s.memSize.toNat) :
    s.commit { out := some out, tag := tag, matched := m, wipe := false } = some { s with
      mem := Memory.writeN s.mem s.dstAddr.toNat out
      dstLen := BitVec.ofNat 32 out.length
      tago := tag.getD s.tago
      status := s.status.succeeded m } := by
  have h' : s.dstAddr.toNat + out.length ≤ s.memBytes := h
  cases tag <;> simp [State.commit, State.commitOut, State.memWrite, h', State.commitTag]

/-- A commit without an output byte string. -/
theorem State.commit_report (s : State) (tag : Option (Vector Byte 8)) (m : Bool) :
    s.commit { out := none, tag := tag, matched := m, wipe := false } = some { s with
      tago := tag.getD s.tago
      status := s.status.succeeded m } := by
  cases tag <;> rfl

/-- The commit of WIPE (46_system.md R185). -/
theorem State.commit_wipe (s : State) (m : Bool) :
    s.commit { out := none, tag := none, matched := m, wipe := true } =
      some { s.wiped with status := s.status.succeeded m } := rfl

/-- Everything a commit can be. -/
theorem State.commit_cases {s t : State} {eff : Effects} (h : s.commit eff = some t) (hw : eff.wipe = false) :
    (eff.out = none ∧ t = { s with tago := eff.tag.getD s.tago, status := s.status.succeeded eff.matched }) ∨
    (∃ out, eff.out = some out ∧ s.dstAddr.toNat + out.length ≤ s.memSize.toNat ∧ t = { s with
      mem := Memory.writeN s.mem s.dstAddr.toNat out
      dstLen := BitVec.ofNat 32 out.length
      tago := eff.tag.getD s.tago
      status := s.status.succeeded eff.matched }) := by
  obtain ⟨out, tag, m, w⟩ := eff
  cases hw
  cases out with
  | none => exact .inl ⟨rfl, by rw [s.commit_report] at h; exact (Option.some.inj h).symm⟩
  | some out =>
    by_cases hr : s.dstAddr.toNat + out.length ≤ s.memSize.toNat
    · rw [State.commit_output hr] at h
      exact .inr ⟨out, rfl, hr, (Option.some.inj h).symm⟩
    · simp [State.commit, State.commitOut, State.memWrite, show ¬ s.dstAddr.toNat + out.length ≤ s.memBytes from hr] at h

/-- The completion of a body that raised an error. -/
theorem State.complete_error {s : State} {r : CommandRun} {e : ErrorKind} (h : r.result = .error e) :
    s.complete r = .next ((s.recorded r.phases r.work).errorCompletion e) := by
  simp [State.complete, h]

/-- The completion of a body that returned its results. -/
theorem State.complete_ok {s : State} {r : CommandRun} {eff : Effects} (h : r.result = .ok eff) :
    s.complete r = match (s.recorded r.phases r.work).commit eff with
      | none => .fault .memoryPort
      | some u => .next u := by
  cases r
  cases h
  rfl

/-- Everything a completion that goes on can be. -/
theorem State.complete_cases {s t : State} {r : CommandRun} (h : s.complete r = .next t) :
    (∃ e, r.result = .error e ∧ t = (s.recorded r.phases r.work).errorCompletion e) ∨
    (∃ eff, r.result = .ok eff ∧ (s.recorded r.phases r.work).commit eff = some t) := by
  cases hr : r.result with
  | error e => rw [State.complete_error hr] at h; exact .inl ⟨e, rfl, by cases h; rfl⟩
  | ok eff =>
    rw [State.complete_ok hr] at h
    split at h
    · cases h
    · rename_i u hu; cases h; exact .inr ⟨eff, rfl, hu⟩

/-! ### One view of the commands -/

/-- The body of each command over the state it completes in (files 41 to 46 of spec/). -/
def bodyOf (i : Instr) (s : State) : CommandRun :=
  match i with
  | .validate => bodyValidate s.ckeyLen s.mkeyLen s.ivLen
  | .pad      => bodyPad s.source
  | .unpad    => bodyUnpad s.source
  | .encrypt  => bodyEncrypt s.ckeyLen s.ivLen s.cipherKey s.ivBytes s.source
  | .decrypt  => bodyDecrypt s.ckeyLen s.ivLen s.cipherKey s.ivBytes s.source
  | .mac      => bodyMac s.mkeyLen s.macKey s.source
  | .verify   => bodyVerify s.mkeyLen s.macKey s.tagBytes s.tagiLen s.source
  | .sealCt   => bodySeal .ciphertextOnly s.envelopeParams s.source
  | .sealIvct => bodySeal .ivThenCiphertext s.envelopeParams s.source
  | .sealPt   => bodySeal .plaintextOnly s.envelopeParams s.source
  | .openCt   => bodyOpenVerifyFirst .ciphertextOnly s.envelopeParams s.tagBytes s.tagiLen s.source
  | .openIvct => bodyOpenVerifyFirst .ivThenCiphertext s.envelopeParams s.tagBytes s.tagiLen s.source
  | .openPt   => bodyOpenPlaintext s.envelopeParams s.tagBytes s.tagiLen s.source
  | .wipe     => bodyWipe

/-- `Exec` (40_lifecycle.md R113): the address check, then the body. -/
theorem exec_eq (i : Instr) (s : State) :
    exec i s = if s.addressOk i then s.complete (bodyOf i s) else .next (s.errorCompletion .addressError) := by
  cases i
  case validate => rfl
  case wipe => rfl
  all_goals exact State.completeOver_eq rfl _

/-- `Validate` fails exactly on a length that is not legal, key lengths first (41_validate.md R125). -/
theorem validate_eq (ckl mkl ivl : Word) :
    validate ckl mkl ivl =
      if (ckl = 16#32 ∨ ckl = 32#32) ∧ mkl = 32#32 then
        if ivl = 16#32 then none else some .invalidIVLength
      else some .invalidKeyLength := by
  unfold validate
  by_cases h1 : ckl = 16#32 <;> by_cases h2 : ckl = 32#32 <;> by_cases h3 : mkl = 32#32 <;>
    by_cases h4 : ivl = 16#32 <;> simp_all

/-- `ValidateCipher` likewise (41_validate.md R126). -/
theorem validateCipher_eq (ckl ivl : Word) :
    validateCipher ckl ivl =
      if ckl = 16#32 ∨ ckl = 32#32 then
        if ivl = 16#32 then none else some .invalidIVLength
      else some .invalidKeyLength := by
  unfold validateCipher
  by_cases h1 : ckl = 16#32 <;> by_cases h2 : ckl = 32#32 <;> by_cases h4 : ivl = 16#32 <;> simp_all

/-- What a body that succeeded can hand to the commit: only WIPE wipes; only VERIFY, and then alone, sets MATCH; an
output byte string is never longer than `OutMax` (40_lifecycle.md R115, R117). -/
structure Effects.Allowed (eff : Effects) (i : Instr) (s : State) : Prop where
  wipe : eff.wipe = true ↔ i = .wipe
  matched : eff.matched = true → i = .verify ∧ eff.out = none ∧ eff.tag = none
  noOut : outMax i s.srcLen.toNat = none → eff.out = none
  outLength : ∀ out, eff.out = some out → ∃ n, outMax i s.srcLen.toNat = some n ∧ out.length ≤ n

theorem Effects.Allowed.output {i : Instr} {s : State} {out : List Byte} {tag : Option (Vector Byte 8)} {n : Nat}
    (hi : i ≠ .wipe) (hn : outMax i s.srcLen.toNat = some n) (ho : out.length ≤ n) :
    Effects.Allowed { out := some out, tag := tag, matched := false, wipe := false } i s where
  wipe := by simp [hi]
  matched := by simp
  noOut := by simp [hn]
  outLength := by rintro _ ⟨⟩; exact ⟨n, hn, ho⟩

/-- The results of every body. -/
theorem bodyOf_allowed {i : Instr} {s : State} {eff : Effects} (h : (bodyOf i s).result = .ok eff) :
    eff.Allowed i s := by
  have lastOut : ∀ x, unpad s.source = some x → x.length ≤ s.srcLen.toNat := fun x hx => by
    have := unpad_length hx; rw [s.source_length] at this; omega
  have opened : s.source.length % 16 = 0 → ∀ x, unpad (cbcDec s.cipherKey s.ivBytes s.source) = some x →
      x.length ≤ s.srcLen.toNat := fun hm x hx => by
    have := unpad_length hx
    rw [cbcDec_length _ (by simp [State.ivBytes]) hm, s.source_length] at this
    omega
  have sealedLen : (sealedText s.envelopeParams s.source).length ≤ 16 * (s.srcLen.toNat / 16 + 1) := by
    rw [sealedText_length, s.source_length]
  cases i <;>
    simp only [bodyOf, bodyValidate, bodyPad, bodyUnpad, bodyEncrypt, bodyDecrypt, bodyMac, bodyVerify, bodySeal,
      bodyOpenVerifyFirst, bodyOpenPlaintext, bodyWipe, CommandRun.raise, CommandRun.succeed, Effects.output,
      Effects.report] at h
  case validate => split at h <;> cases h; exact ⟨by simp, by simp, by simp, by simp⟩
  case pad => cases h; exact .output (by simp) rfl (by rw [pad_length, s.source_length])
  case unpad =>
    split at h
    · cases h
    · rename_i x hx; cases h; exact .output (by simp) rfl (lastOut x hx)
  case encrypt =>
    split at h
    · cases h
    · split at h
      · cases h
      · rename_i hm; cases h
        exact .output (by simp) rfl (by rw [cbcEnc_length _ _ (by omega), s.source_length])
  case decrypt =>
    split at h
    · cases h
    · split at h
      · cases h
      · rename_i hm; cases h
        exact .output (by simp) rfl (by rw [cbcDec_length _ (by simp [State.ivBytes]) (by omega), s.source_length])
  case mac => split at h <;> cases h; exact ⟨by simp, by simp, by simp, by simp⟩
  case verify => split at h <;> cases h; exact ⟨by simp, by simp, by simp, by simp⟩
  case sealCt | sealIvct | sealPt =>
    split at h <;> cases h
    exact .output (by simp) rfl sealedLen
  case openCt | openIvct =>
    split at h
    · cases h
    · split at h
      · split at h
        · cases h
        · rename_i hm
          split at h
          · cases h
          · rename_i x hx; cases h; exact .output (by simp) rfl (opened (by omega) x hx)
      · cases h
  case openPt =>
    split at h
    · cases h
    · split at h
      · cases h
      · rename_i hm
        split at h
        · cases h
        · rename_i x hx
          split at h
          · cases h; exact .output (by simp) rfl (opened (by omega) x hx)
          · cases h
  case wipe => cases h; exact ⟨by simp, by simp, by simp, by simp⟩

/-- EVERYTHING A COMMAND CAN DO: the address error, an error of its body, WIPE's commit, or the commit of its results
without or with an output byte string that fits. -/
inductive CommandEnds (i : Instr) (s : State) : State → Prop where
  | address : s.addressOk i = false → CommandEnds i s (s.errorCompletion .addressError)
  | error (e : ErrorKind) : s.addressOk i = true → (bodyOf i s).result = .error e →
      CommandEnds i s ((s.recorded (bodyOf i s).phases (bodyOf i s).work).errorCompletion e)
  | wiped : i = .wipe → CommandEnds i s { s.wiped with status := s.status.succeeded false }
  | report (eff : Effects) : s.addressOk i = true → (bodyOf i s).result = .ok eff → i ≠ .wipe → eff.out = none →
      CommandEnds i s { s.recorded (bodyOf i s).phases (bodyOf i s).work with
        tago := eff.tag.getD s.tago
        status := s.status.succeeded eff.matched }
  | output (eff : Effects) (out : List Byte) : s.addressOk i = true → (bodyOf i s).result = .ok eff → i ≠ .wipe →
      eff.out = some out → eff.matched = false → s.dstAddr.toNat + out.length ≤ s.memSize.toNat →
      CommandEnds i s { s.recorded (bodyOf i s).phases (bodyOf i s).work with
        mem := Memory.writeN s.mem s.dstAddr.toNat out
        dstLen := BitVec.ofNat 32 out.length
        tago := eff.tag.getD s.tago
        status := s.status.succeeded false }

/-- Every command answers a next state, and these are the ones. -/
theorem exec_next (i : Instr) (s : State) : ∃ t, exec i s = .next t ∧ CommandEnds i s t := by
  rw [exec_eq]
  split
  · rename_i ha
    cases hr : (bodyOf i s).result with
    | error e => exact ⟨_, State.complete_error hr, .error e ha hr⟩
    | ok eff =>
      have hal := bodyOf_allowed hr
      rw [State.complete_ok hr]
      by_cases hi : i = .wipe
      · subst hi; cases hr
        exact ⟨_, rfl, by simpa [bodyOf, bodyWipe, CommandRun.succeed] using CommandEnds.wiped (i := .wipe) (s := s) rfl⟩
      · obtain ⟨out, tag, m, w⟩ := eff
        have hw : w = false := by simpa [hi] using hal.wipe
        subst hw
        cases out with
        | none => rw [State.commit_report]; exact ⟨_, rfl, .report _ ha hr hi rfl⟩
        | some out =>
          obtain ⟨n, hn, hl⟩ := hal.outLength out rfl
          have hroom := ((s.addressOk_iff i).1 ha).2 n hn
          have hfit : s.dstAddr.toNat + out.length ≤ s.memSize.toNat := by
            have : s.dstAddr.toNat + n ≤ s.memSize.toNat := hroom
            omega
          have hm : m = false := by
            cases m with
            | false => rfl
            | true => simpa using (hal.matched rfl).2.1
          subst hm
          rw [State.commit_output (by simpa using hfit)]
          exact ⟨_, rfl, .output _ out ha hr hi rfl rfl hfit⟩
  · rename_i ha
    exact ⟨_, rfl, .address (by simpa using ha)⟩

theorem exec_ends {i : Instr} {s t : State} (h : exec i s = .next t) : CommandEnds i s t := by
  obtain ⟨u, hu, hc⟩ := exec_next i s
  rw [hu] at h; cases h; exact hc

end Sys2Proof.Machine
end

