-- ==== Sys2Proof/Laws/Commands.lean ====
section
/-! SUPPORT. From what a body returned to how its command ends (Safety.lean), and the three ways a validator answers. -/

namespace Sys2Proof.Machine

variable {i : Instr} {s : State}

/-! ### How a command ends -/

/-- The address check failed. -/
theorem endsWithError_address (ha : s.addressOk i = false) : EndsWithError i s .addressError [] :=
  ⟨s.work, by rw [exec_eq, if_neg (by simp [ha])]; simp [State.errorCompletion, Status.failed]⟩

/-- The body raised an error. -/
theorem endsWithError_body {e : ErrorKind} {phases : List Phase} (ha : s.addressOk i = true)
    (hr : (bodyOf i s).result = .error e) (hp : (bodyOf i s).phases = phases) : EndsWithError i s e phases :=
  ⟨(bodyOf i s).work, by rw [exec_eq, if_pos ha, State.complete_error hr, hp]; rfl⟩

/-- The body succeeded without an output byte string. -/
theorem endsReporting_body {m : Bool} {tag : Option (Vector Byte 8)} {phases : List Phase}
    (ha : s.addressOk i = true)
    (hr : (bodyOf i s).result = .ok { out := none, tag := tag, matched := m, wipe := false })
    (hp : (bodyOf i s).phases = phases) : EndsReporting i s m (tag.getD s.tago) phases :=
  ⟨(bodyOf i s).work, by rw [exec_eq, if_pos ha, State.complete_ok hr, State.commit_report, hp]; rfl⟩

/-- The body succeeded with an output byte string; it fits, because the address check made room for it. -/
theorem endsWithOutput_body {out : List Byte} {tag : Option (Vector Byte 8)} {phases : List Phase}
    (ha : s.addressOk i = true)
    (hr : (bodyOf i s).result = .ok { out := some out, tag := tag, matched := false, wipe := false })
    (hp : (bodyOf i s).phases = phases) : EndsWithOutput i s out (tag.getD s.tago) phases := by
  obtain ⟨n, hn, hl⟩ := (bodyOf_allowed hr).outLength out rfl
  have hroom : s.dstAddr.toNat + n ≤ s.memSize.toNat := ((s.addressOk_iff i).1 ha).2 n hn
  have hfit : s.dstAddr.toNat + out.length ≤ s.memSize.toNat := by omega
  refine ⟨_, by rw [exec_eq, if_pos ha, State.complete_ok hr, State.commit_output (by simpa using hfit)],
    ⟨fun k hk => Memory.read_writeN_inside hk, fun b hb => Memory.read_writeN_outside hb⟩, ?_, ?_⟩
  · simp; have := s.memSize.isLt; omega
  · simp only [State.recorded_mem, hp]; rfl

/-! ### The address check by kind of command -/

/-- For a command with a source and an output of at most `n` bytes. -/
theorem addressOk_iff_both {n : Nat} (hi : usesSource i = true) (ho : outMax i s.srcLen.toNat = some n) :
    s.addressOk i = true ↔ s.SourceInMem ∧ s.RoomFor n := by
  rw [s.addressOk_iff, hi, ho]; simp

/-- For a command with a source and no output. -/
theorem addressOk_iff_source (hi : usesSource i = true) (ho : outMax i s.srcLen.toNat = none) :
    s.addressOk i = true ↔ s.SourceInMem := by
  rw [s.addressOk_iff, hi, ho]; simp

/-! ### The validators -/

theorem validate_cases (a b c : Word) :
    validate a b c = none ∨ validate a b c = some .invalidKeyLength ∨ validate a b c = some .invalidIVLength := by
  rw [validate_eq]; split <;> (try split) <;> simp

theorem validateCipher_cases (a b : Word) :
    validateCipher a b = none ∨ validateCipher a b = some .invalidKeyLength ∨
      validateCipher a b = some .invalidIVLength := by
  rw [validateCipher_eq]; split <;> (try split) <;> simp

theorem validateMac_cases (a : Word) : validateMac a = none ∨ validateMac a = some .invalidKeyLength := by
  unfold validateMac; split <;> simp

/-! ### What the invariant looks at -/

/-- The invariant of a state carries over to one that agrees on what it looks at and has MEM in order. -/
theorem State.inv_of_same {t : State} (h : s.Inv) (hsize : t.memSize = s.memSize) (hwf : Memory.wf t.mem)
    (hin : Memory.within s.memBytes t.mem) (hlen : t.dstLen = s.dstLen) (hst : t.status = s.status)
    (htag : t.tago = s.tago) (htr : t.trace = s.trace) (hwk : t.work = s.work) : t.Inv := by
  unfold State.Inv State.memBytes State.BusyIsClean State.ErrorIsClean State.MatchIsClean State.JustIssued at *
  rw [hsize, hlen, hst, htag, htr, hwk]
  exact ⟨h.1, hwf, hin, h.2.2.2⟩

end Sys2Proof.Machine
end

