-- ==== Sys2Proof/Laws/PerInstr.lean ====
section
/-! SUPPORT. Statements for all instructions, one lemma for each. Family `DecodeEncode`: the word of a command decodes to
that command (30_encoding.md R92, R94). -/

namespace Sys2Proof.Laws

/-- The decoder reads the encoder's word back. -/
def DecodeEncode.Statement (i : Instr) : Prop :=
  decode (encode i) = .ok i

theorem DecodeEncode.validate : DecodeEncode.Statement .validate := rfl
theorem DecodeEncode.pad : DecodeEncode.Statement .pad := rfl
theorem DecodeEncode.unpad : DecodeEncode.Statement .unpad := rfl
theorem DecodeEncode.encrypt : DecodeEncode.Statement .encrypt := rfl
theorem DecodeEncode.decrypt : DecodeEncode.Statement .decrypt := rfl
theorem DecodeEncode.mac : DecodeEncode.Statement .mac := rfl
theorem DecodeEncode.verify : DecodeEncode.Statement .verify := rfl
theorem DecodeEncode.sealCt : DecodeEncode.Statement .sealCt := rfl
theorem DecodeEncode.sealIvct : DecodeEncode.Statement .sealIvct := rfl
theorem DecodeEncode.sealPt : DecodeEncode.Statement .sealPt := rfl
theorem DecodeEncode.openCt : DecodeEncode.Statement .openCt := rfl
theorem DecodeEncode.openIvct : DecodeEncode.Statement .openIvct := rfl
theorem DecodeEncode.openPt : DecodeEncode.Statement .openPt := rfl
theorem DecodeEncode.wipe : DecodeEncode.Statement .wipe := rfl

end Sys2Proof.Laws
end

