-- ==== Sys2Proof/Laws/Step.lean ====
section
/-! SUPPORT. One equation for each kind of step (20_memory.md R75), so that no later proof unfolds `step`. -/

namespace Sys2Proof.Machine

variable {s : State} {rest : List Event}

theorem step_read {off size : Nat} (h : s.agenda = .read off size :: rest) :
    step s = .next (State.hostRead { s with agenda := rest } off size) := by
  simp [step, State.advance, h, State.take]

theorem step_write {off size : Nat} {v : Word} (h : s.agenda = .write off size v :: rest) :
    step s = .next (State.hostWrite { s with agenda := rest } off size v) := by
  simp [step, State.advance, h, State.take]

theorem step_reset {cells : List Host.Cell} {w : Word} (h : s.agenda = .reset cells w :: rest) :
    step s = .next (State.resetStep { s with agenda := rest } cells w) := by
  simp [step, State.advance, h, State.take]

theorem step_sequencer (h : s.agenda = .sequencer :: rest) :
    step s = State.sequencerTurn { s with agenda := rest } := by
  simp [step, State.advance, h, State.take]

theorem step_nil (h : s.agenda = []) : step s = s.sequencerTurn := by
  simp [step, State.advance, h]

/-- A register read, busy or not. -/
theorem step_read_register {off : Nat} {r : Reg} (h : s.agenda = .read off 4 :: rest)
    (hr : regMap.lookup off = some r) : step s = .next { s with agenda := rest, resp := .data (s.readReg r) } := by
  have hres : resolve (State.memBytes { s with agenda := rest }) off 4 = some (.reg r) := resolve_register _ hr
  rw [step_read h, State.hostRead]
  simp only [hres]
  cases r <;> rfl

/-- A register written while BUSY = 0. -/
theorem step_write_register {off : Nat} {r : Reg} {v : Word} (h : s.agenda = .write off 4 v :: rest)
    (hb : s.status.busy = false) (hr : regMap.lookup off = some r) :
    step s = .next { s.writeReg r v with agenda := rest, resp := .ok } := by
  rw [step_write h, State.hostWrite_target (s := { s with agenda := rest }) v (resolve_register _ hr) hb]
  cases r <;> rfl

/-- MEM read through the window, busy or not. -/
theorem step_read_window {a size : Nat} (h : s.agenda = .read (0x1000 + a) size :: rest)
    (hs : size = 1 ∨ size = 2 ∨ size = 4) (ha : a % size = 0) (hm : a + size ≤ s.memSize.toNat) :
    step s = .next { s with agenda := rest, resp := .data (leOfBytes (Memory.readN s.mem a size)) } := by
  have hres : resolve (State.memBytes { s with agenda := rest }) (0x1000 + a) size = some (.mem a) :=
    resolve_window hs ha hm
  rw [step_read h, State.hostRead]
  simp only [hres]
  rfl

/-- MEM written through the window while BUSY = 0. -/
theorem step_write_window {a size : Nat} {v : Word} (h : s.agenda = .write (0x1000 + a) size v :: rest)
    (hb : s.status.busy = false) (hs : size = 1 ∨ size = 2 ∨ size = 4) (ha : a % size = 0)
    (hm : a + size ≤ s.memSize.toNat) :
    step s = .next { s with agenda := rest, resp := .ok, mem := Memory.writeN s.mem a (leBytes v size) } := by
  rw [step_write h, State.hostWrite_target (s := { s with agenda := rest }) v (resolve_window hs ha hm) hb]
  rfl

/-- A write in order while BUSY = 1 (20_memory.md R70). -/
theorem step_write_busy {off size : Nat} {v : Word} {t : Target} (h : s.agenda = .write off size v :: rest)
    (hb : s.status.busy = true) (hr : resolve s.memBytes off size = some t) :
    step s = .next { s with agenda := rest, resp := .ok, status := s.status.locked } := by
  have hres : resolve (State.memBytes { s with agenda := rest }) off size = some t := hr
  rw [step_write h, State.hostWrite]
  simp only [hres, hb, if_true]
  rfl

/-- Everything a turn of the sequencer can do: nothing, an illegal word's completion, a command. -/
theorem State.sequencerTurn_cases (s : State) :
    (s.status.busy = false ∧ s.sequencerTurn = .next s) ∨
    (s.status.busy = true ∧ (∃ e, decode s.lcmd = .error e) ∧
      s.sequencerTurn = .next (s.errorCompletion .illegalCommand)) ∨
    (∃ i t, s.status.busy = true ∧ decode s.lcmd = .ok i ∧ s.sequencerTurn = .next t ∧ exec i s = .next t ∧
      CommandEnds i s t) := by
  cases hb : s.status.busy
  · exact .inl ⟨rfl, by simp [State.sequencerTurn, hb]⟩
  · refine .inr ?_
    cases hd : decode s.lcmd with
    | error e => exact .inl ⟨rfl, ⟨e, rfl⟩, by simp [State.sequencerTurn, hb, State.completeLatched, hd, completeIllegal]⟩
    | ok i =>
      obtain ⟨t, ht, hc⟩ := exec_next i s
      exact .inr ⟨i, t, rfl, rfl, by simp [State.sequencerTurn, hb, State.completeLatched, hd, ht], ht, hc⟩

end Sys2Proof.Machine
end

