-- ==== Sys2Proof/Machine/Script.lean ====
section
/-! DEFINITION. The host-script notation (30_encoding.md R97 to R99): its lines and their expansion into host
transactions. It is notation only; nothing in the hardware reads it. -/

namespace Sys2Proof.Machine

/-- The offset of a register (20_memory.md R62). -/
def Reg.offset : Reg → Nat
  | .id      => 0x00
  | .cmd     => 0x04
  | .status  => 0x08
  | .ctrl    => 0x0C
  | .srcAddr => 0x10
  | .srcLen  => 0x14
  | .dstAddr => 0x18
  | .dstLen  => 0x1C
  | .ckeyLen => 0x20
  | .mkeyLen => 0x24
  | .ivLen   => 0x28
  | .tagiLen => 0x2C
  | .memSize => 0x30
  | .ckeyW k => 0x40 + 4 * k
  | .mkeyW k => 0x60 + 4 * k
  | .ivW k   => 0x80 + 4 * k
  | .tagiW k => 0x90 + 4 * k
  | .tagoW k => 0xA0 + 4 * k

/-- The files a `load` line fills (30_encoding.md R98). -/
inductive OperandFile where
  | ckey
  | mkey
  | iv
  | tagi
deriving DecidableEq, Repr

/-- The capacity of a file in bytes (30_encoding.md R98). -/
def OperandFile.capacity : OperandFile → Nat
  | .ckey => 32
  | .mkey => 32
  | .iv   => 16
  | .tagi => 8

/-- Word `k` of a file. -/
def OperandFile.word (f : OperandFile) (k : Nat) : Reg :=
  match f with
  | .ckey => .ckeyW k
  | .mkey => .mkeyW k
  | .iv   => .ivW k
  | .tagi => .tagiW k

/-- The length register of a file. -/
def OperandFile.length : OperandFile → Reg
  | .ckey => .ckeyLen
  | .mkey => .mkeyLen
  | .iv   => .ivLen
  | .tagi => .tagiLen

/-- The lines of a host script (30_encoding.md R97, R98). -/
inductive HostLine where
  | wr (r : Reg) (v : Word)
  | wrb (a : Nat) (b : Byte)
  | rd (r : Reg)
  | rdb (a : Nat)
  | cmd (i : Instr)
  | raw (w : Word)
  /-- `wait`, with the number of polls that still find BUSY = 1 (log 17). -/
  | wait (polls : Nat)
  | load (f : OperandFile) (bytes : List Byte)
  | put (a : Nat) (bytes : List Byte)
  | get (a n : Nat)
  | src (a n : Nat)
  | dst (a : Nat)
  | ack
deriving DecidableEq, Repr

/-- `wr <REG>, <value>`. -/
def wrEvent (r : Reg) (v : Word) : Event :=
  .write r.offset 4 v

/-- `rd <REG>`. -/
def rdEvent (r : Reg) : Event :=
  .read r.offset 4

/-- `wrb MEM+<a>, <byte>`. -/
def wrbEvent (a : Nat) (b : Byte) : Event :=
  .write (windowBase + a) 1 (b.setWidth 32)

/-- `rdb MEM+<a>`. -/
def rdbEvent (a : Nat) : Event :=
  .read (windowBase + a) 1

/-- One `wrb` for each byte, ascending. -/
def putEvents (a : Nat) : List Byte → List Event
  | [] => []
  | b :: bs => wrbEvent a b :: putEvents (a + 1) bs

/-- The `wr F_Wk` lines of a `load` (30_encoding.md R98): the words `k` with `4k < min(n, cap)`, bytes past the
string taken as 0. -/
def loadWords (f : OperandFile) (bytes : List Byte) : List Event :=
  (List.range ((min bytes.length f.capacity + 3) / 4)).map fun k =>
    wrEvent (f.word k) (leOfBytes ((bytes.drop (4 * k)).take 4))

/-- The transactions a line stands for (30_encoding.md R97, R98). In a `wait` the sequencer completes the command
after the polls that find it busy. -/
def HostLine.expand : HostLine → List Event
  | .wr r v       => [wrEvent r v]
  | .wrb a b      => [wrbEvent a b]
  | .rd r         => [rdEvent r]
  | .rdb a        => [rdbEvent a]
  | .cmd i        => [wrEvent .cmd (encode i)]
  | .raw w        => [wrEvent .cmd w]
  | .wait polls   => List.replicate polls (rdEvent .status) ++ [.sequencer, rdEvent .status]
  | .load f bytes => loadWords f bytes ++ [wrEvent f.length (BitVec.ofNat 32 bytes.length)]
  | .put a bytes  => putEvents a bytes
  | .get a n      => (List.range n).map fun i => rdbEvent (a + i)
  | .src a n      => [wrEvent .srcAddr (BitVec.ofNat 32 a), wrEvent .srcLen (BitVec.ofNat 32 n)]
  | .dst a        => [wrEvent .dstAddr (BitVec.ofNat 32 a)]
  | .ack          => [wrEvent .status 0x0000000A#32]

/-- The agenda of a script. -/
def agendaOf (lines : List HostLine) : List Event :=
  lines.flatMap HostLine.expand

end Sys2Proof.Machine
end

