-- ==== Sys2Proof/Tests/Slice0.lean ====
section
/-! SUPPORT. The model's own tests: ill-formed terms that WellFormed refuses, written-out words that decode, small steps
with the results of spec/95_test_vectors.md and of the rules' examples, and, for every statement with hypotheses, a
concrete state and operands that meet them (`witness_…`). -/

namespace Sys2Proof.Tests

open Sys2Proof.Machine

/-! ### Helpers -/

/-- What a test looks at after a step: STATUS, the output byte string, TAGO, TRACE. -/
def seen (out : Host.Outcome State Fault Refusal) : Option (Word × List Byte × List Byte × List Phase) :=
  match out with
  | .next t    => some (t.status.toWord, Memory.readN t.mem t.dstAddr.toNat t.dstLen.toNat, t.tago.toList, t.trace)
  | .fault _   => none
  | .refused _ => none

/-- The step goes on and its next state passes a check. -/
def lands (out : Host.Outcome State Fault Refusal) (p : State → Bool) : Bool :=
  match out with
  | .next t    => p t
  | .fault _   => false
  | .refused _ => false

/-- The scenario operands of 45_envelope.md R167, with `src` at 0x100 and the output at 0x200. -/
def scene (src : List Byte) : State :=
  { State.reset with
    mkey := Vector.replicate 32 0x11#8
    iv := Vector.replicate 16 0x22#8
    ckeyLen := 32#32, mkeyLen := 32#32, ivLen := 16#32, tagiLen := 8#32
    srcAddr := 0x100#32, srcLen := BitVec.ofNat 32 src.length, dstAddr := 0x200#32
    mem := Memory.writeN [] 0x100 src }

/-- `scene` with a presented tag. -/
def sceneTag (src tag : List Byte) : State :=
  { scene src with tagi := fileOfBytes 8 tag }

/-- A state with the next entry of the agenda. -/
def next (s : State) (e : Event) : State :=
  { s with agenda := [e] }

/-- A state with a command in execution. -/
def busy (i : Instr) (s : State) : State :=
  s.issue (encode i)

/-- "hello". -/
def hello : List Byte := [0x68#8, 0x65#8, 0x6c#8, 0x6c#8, 0x6f#8]

/-- "hello" padded (42_padding.md R137). -/
def helloPadded : List Byte := hello ++ List.replicate 11 0x0b#8

/-- The ciphertext of R167. -/
def helloCipher : List Byte :=
  beBytes 0xc2107af7#32 ++ beBytes 0xf64e7a44#32 ++ beBytes 0x3ee9d36a#32 ++ beBytes 0x1c2c4e4e#32

/-- The tags of R167, R168, R169. -/
def tagCt : List Byte := beBytes 0xee38e8f3#32 ++ beBytes 0xb44a9d49#32
def tagIvct : List Byte := beBytes 0xea4af6ce#32 ++ beBytes 0xe648aa7b#32
def tagPt : List Byte := beBytes 0x7afe0f78#32 ++ beBytes 0x6c2e16b7#32

/-- A tag with its first byte wrong. -/
def tagBad : List Byte := beBytes 0xeb4af6ce#32 ++ beBytes 0xe648aa7b#32

def zeros8 : List Byte := List.replicate 8 0#8

/-! ### WellFormed refuses -/

theorem test_wf_refuses_reserved_bit : CommandFields.wellFormed { op := 1#4, scope := 0#2, zero := 1#26 } = false := by decide
theorem test_wf_refuses_top_bit : CommandFields.zeroOk { op := 1#4, scope := 0#2, zero := 0x2000000#26 } = false := by decide
theorem test_wf_refuses_op_zero : CommandFields.opOk { op := 0#4, scope := 0#2, zero := 0#26 } = false := by decide
theorem test_wf_refuses_op_eleven : CommandFields.wellFormed { op := 11#4, scope := 0#2, zero := 0#26 } = false := by decide
theorem test_wf_refuses_scope_three : CommandFields.scopeOk { op := 8#4, scope := 3#2, zero := 0#26 } = false := by decide
theorem test_wf_refuses_scope_on_pad : CommandFields.scopeOk { op := 2#4, scope := 1#2, zero := 0#26 } = false := by decide
theorem test_wf_takes_open_pt : CommandFields.wellFormed { op := 9#4, scope := 2#2, zero := 0#26 } = true := by decide

/-! ### Decoding words written out from 30_encoding.md R90 and R92 -/

theorem test_decode_validate : decode 0b00000000000000000000000000000001#32 = .ok .validate := by decide
theorem test_decode_pad : decode 0b00000000000000000000000000000010#32 = .ok .pad := by decide
theorem test_decode_unpad : decode 0b00000000000000000000000000000011#32 = .ok .unpad := by decide
theorem test_decode_encrypt : decode 0b00000000000000000000000000000100#32 = .ok .encrypt := by decide
theorem test_decode_decrypt : decode 0b00000000000000000000000000000101#32 = .ok .decrypt := by decide
theorem test_decode_mac : decode 0b00000000000000000000000000000110#32 = .ok .mac := by decide
theorem test_decode_verify : decode 0b00000000000000000000000000000111#32 = .ok .verify := by decide
theorem test_decode_sealCt : decode 0b00000000000000000000000000001000#32 = .ok .sealCt := by decide
theorem test_decode_sealIvct : decode 0b00000000000000000000000000011000#32 = .ok .sealIvct := by decide
theorem test_decode_sealPt : decode 0b00000000000000000000000000101000#32 = .ok .sealPt := by decide
theorem test_decode_openCt : decode 0b00000000000000000000000000001001#32 = .ok .openCt := by decide
theorem test_decode_openIvct : decode 0b00000000000000000000000000011001#32 = .ok .openIvct := by decide
theorem test_decode_openPt : decode 0b00000000000000000000000000101001#32 = .ok .openPt := by decide
theorem test_decode_wipe : decode 0b00000000000000000000000000001010#32 = .ok .wipe := by decide
theorem test_decode_refuses_reserved : decode 0x00000041#32 = .error .reservedBits := by decide
theorem test_decode_refuses_scope_three : decode 0x00000039#32 = .error .scopeReserved := by decide
theorem test_decode_refuses_scope_on_wipe : decode 0x0000001A#32 = .error .scopeNotTaken := by decide
theorem test_decode_refuses_op_fifteen : decode 0x0000000F#32 = .error .opUndefined := by decide
theorem test_decodeTableWord : decodeTableWord 32 0x29 = some .openPt ∧ decodeTableWord 32 0x40 = none := by decide

/-- A command is the first instruction after reset (70_reset_and_hazards.md R283): PAD pads the empty string. -/
theorem test_first_pad : seen (step (State.reset.withFetchWord 32 2)) =
    some (0x00000002#32, List.replicate 16 0x10#8, zeros8, [.pad]) := by decide
theorem test_first_validate : seen (step (State.reset.withFetchWord 32 1)) =
    some (0x00000102#32, [], zeros8, [.v]) := by decide
theorem test_first_unpad : seen (step (State.reset.withFetchWord 32 3)) =
    some (0x00000402#32, [], zeros8, [.unpad]) := by decide
theorem test_first_illegal : seen (step (State.reset.withFetchWord 32 0x38)) =
    some (0x00000602#32, [], zeros8, []) := by decide

/-! ### One step of each command -/

/-- 41_validate.md R127, its example and a corner case. -/
theorem test_validate_ok : seen (exec .validate (scene [])) = some (0x00000002#32, [], zeros8, [.v]) := by decide
theorem test_validate_iv : seen (exec .validate { scene [] with ivLen := 17#32 }) =
    some (0x00000202#32, [], zeros8, [.v]) := by decide

/-- 42_padding.md R137: its example, and a source that is aligned already. -/
theorem test_pad_hello : seen (exec .pad (scene hello)) = some (0x00000002#32, helloPadded, zeros8, [.pad]) := by decide
theorem test_pad_aligned : seen (exec .pad (scene helloCipher)) =
    some (0x00000002#32, helloCipher ++ List.replicate 16 0x10#8, zeros8, [.pad]) := by decide

/-- 42_padding.md R138: its example, and a last byte 0x11. -/
theorem test_unpad_hello : seen (exec .unpad (scene helloPadded)) = some (0x00000002#32, hello, zeros8, [.unpad]) := by decide
theorem test_unpad_seventeen : seen (exec .unpad (scene (List.replicate 16 0x11#8))) =
    some (0x00000402#32, [], zeros8, [.unpad]) := by decide

/-- 43_cbc.md R147: its example, and an input that is no whole block. -/
theorem test_encrypt_hello : seen (exec .encrypt (scene helloPadded)) =
    some (0x00000002#32, helloCipher, zeros8, [.v, .enc]) := by decide +kernel
theorem test_encrypt_length : seen (exec .encrypt (scene hello)) = some (0x00000302#32, [], zeros8, [.v]) := by decide

/-- 43_cbc.md R148: its example, in place. -/
theorem test_decrypt_hello : seen (exec .decrypt { scene helloCipher with dstAddr := 0x100#32 }) =
    some (0x00000002#32, helloPadded, zeros8, [.v, .dec]) := by decide +kernel

/-- 44_mac.md R157: its example (`iv ++ ct` in MEM), and a wrong key length. -/
theorem test_mac_example : seen (exec .mac (scene (List.replicate 16 0x22#8 ++ helloCipher))) =
    some (0x00000002#32, [], tagIvct, [.v, .mac]) := by decide +kernel
theorem test_mac_key : seen (exec .mac { scene [] with mkeyLen := 31#32 }) =
    some (0x00000102#32, [], zeros8, [.v]) := by decide

/-- 44_mac.md R158: its two examples. -/
theorem test_verify_match : seen (exec .verify (sceneTag (List.replicate 16 0x22#8 ++ helloCipher) tagIvct)) =
    some (0x00000006#32, [], zeros8, [.v, .mac, .cmp]) := by decide +kernel
theorem test_verify_mismatch : seen (exec .verify (sceneTag (List.replicate 16 0x22#8 ++ helloCipher) tagBad)) =
    some (0x00000002#32, [], zeros8, [.v, .mac, .cmp]) := by decide +kernel

/-- 45_envelope.md R167 to R169: their examples. -/
theorem test_sealCt : seen (exec .sealCt (scene hello)) =
    some (0x00000002#32, helloCipher, tagCt, [.v, .pad, .enc, .mac]) := by decide +kernel
theorem test_sealIvct : seen (exec .sealIvct (scene hello)) =
    some (0x00000002#32, helloCipher, tagIvct, [.v, .pad, .enc, .mac]) := by decide +kernel
theorem test_sealPt : seen (exec .sealPt { scene hello with dstAddr := 0x100#32 }) =
    some (0x00000002#32, helloCipher, tagPt, [.v, .pad, .enc, .mac]) := by decide +kernel

/-- 45_envelope.md R172 to R174: their examples, each with its failing variant. -/
theorem test_openCt : seen (exec .openCt (sceneTag helloCipher tagCt)) =
    some (0x00000002#32, hello, zeros8, [.v, .mac, .cmp, .dec, .unpad]) := by decide +kernel
theorem test_openCt_bad_tag : seen (exec .openCt (sceneTag helloCipher tagBad)) =
    some (0x00000502#32, [], zeros8, [.v, .mac, .cmp]) := by decide +kernel
theorem test_openIvct : seen (exec .openIvct (sceneTag helloCipher tagIvct)) =
    some (0x00000002#32, hello, zeros8, [.v, .mac, .cmp, .dec, .unpad]) := by decide +kernel
theorem test_openIvct_length : seen (exec .openIvct { sceneTag helloCipher tagIvct with tagiLen := 7#32 }) =
    some (0x00000502#32, [], zeros8, [.v]) := by decide
theorem test_openPt : seen (exec .openPt (sceneTag helloCipher tagPt)) =
    some (0x00000002#32, hello, zeros8, [.v, .dec, .unpad, .mac, .cmp]) := by decide +kernel
theorem test_openPt_padding : seen (exec .openPt (sceneTag (helloCipher.dropLast ++ [0x4f#8]) tagPt)) =
    some (0x00000502#32, [], zeros8, [.v, .dec, .unpad]) := by decide +kernel

/-- 46_system.md R185. -/
theorem test_wipe : lands (exec .wipe (sceneTag hello tagCt)) (fun t =>
    t.mem == [] && t.mkey == Vector.replicate 32 0#8 && t.iv == Vector.replicate 16 0#8 && t.srcLen == 0#32 &&
    t.memSize == 4096#32 && t.status.toWord == 2#32) = true := by decide

/-- 60_exceptions.md R243: an address error comes before a key-length error. -/
theorem test_address_first : seen (exec .sealCt { scene hello with srcAddr := 0xFFFFFFFF#32, ckeyLen := 0#32 }) =
    some (0x00000702#32, [], zeros8, []) := by decide

/-! ### The host interface -/

/-- 20_memory.md R63, its example. -/
theorem test_ckey_word : lands (step (next State.reset (.write 0x40 4 0x03020100#32))) (fun t =>
    t.resp == .ok && t.ckey.toList.take 5 == [0x00#8, 0x01#8, 0x02#8, 0x03#8, 0#8]) = true := by decide
/-- 20_memory.md R64, its example. -/
theorem test_window_word : lands (step (next (State.reset.writeWindow 8 4 0x6c6c6568#32) (.read 0x1009 1)))
    (fun t => t.resp == .data 0x65#32) = true := by decide
/-- 20_memory.md R66: an unmapped offset, busy or not, leaves LOCKERR alone. -/
theorem test_unmapped : lands (step (next (busy .pad State.reset) (.write 0x34 4 1#32)))
    (fun t => t.resp == .busError && t.status.lockErr == false) = true := by decide
/-- 20_memory.md R70: a CMD write while busy is dropped. -/
theorem test_dropped : lands (step (next (busy .pad State.reset) (.write 0x04 4 10#32)))
    (fun t => t.resp == .ok && t.lcmd == 2#32 && t.status.toWord == 0x9#32) = true := by decide
/-- 60_exceptions.md R251: `irq` after a completion, and its acknowledgement. -/
theorem test_irq : lands (step { busy .wipe State.reset with ctrl := { ie := true } }) (fun t =>
    t.irq && lands (step (next t (.write 0x08 4 2#32))) (fun u => !u.irq && u.status.toWord == 0#32)) = true := by decide
/-- 70_reset_and_hazards.md R281: reset aborts a command. -/
theorem test_reset_aborts : lands (step (next (busy .pad (scene hello)) (.reset [(3, 7#8)] 5#32))) (fun t =>
    t.status.toWord == 0#32 && t.mem == [(3, 7#8)] && t.lcmd == 5#32 && t.srcLen == 0#32) = true := by decide
/-- 30_encoding.md R98: `load IV` of 17 bytes writes the 16 the file holds and the length 17. -/
theorem test_load_too_long : (HostLine.expand (.load .iv (List.replicate 17 0x22#8))).length = 5 ∧
    (HostLine.expand (.load .iv (List.replicate 17 0x22#8))).getLast? = some (.write 0x28 4 17#32) := by decide
/-- The offsets of the host-script names are those of the register map. -/
theorem test_offsets : ∀ entry ∈ regMap, entry.2.offset = entry.1 := by decide

/-! ### Witnesses: a state and operands that meet all hypotheses of a statement -/

theorem witness_IllegalWordCompletesWithError : (∀ i, (0#32 : Word) ≠ encode i) ∧ State.reset.agenda = [] :=
  ⟨fun i => by cases i <;> decide, rfl⟩
/-- An illegal word in execution, a write dropped since its issue, one more read to come after its completion. -/
def illegalLater : State :=
  { State.reset.issue 0x38#32 with
    status := (State.reset.issue 0x38#32).status.locked, agenda := [.sequencer, .read 8 4] }

/-- For the clauses on illegal words of ErrorCompletionWritesOnlyStatus, PossibleErrorsOfEachCommand and
PhasesFollowTheTable too. -/
theorem witness_IllegalTurn : illegalLater.IllegalTurn ∧ (State.reset.issue 0#32).IllegalTurn :=
  ⟨⟨rfl, fun i => by cases i <;> decide, .inr rfl⟩, ⟨rfl, fun i => by cases i <;> decide, .inl rfl⟩⟩
theorem witness_IllegalTurn_issued : illegalLater.JustIssued ∧ (State.reset.issue 0#32).JustIssued :=
  ⟨⟨rfl, rfl, rfl, rfl, rfl⟩, ⟨rfl, rfl, rfl, rfl, rfl⟩⟩
/-- 60_exceptions.md R246: LOCKERR is left as it is. -/
theorem test_illegal_after_dropped_write : lands (step illegalLater) (fun t =>
    t.status.toWord == 0x60A#32 && t.agenda == [.read 8 4] && t.trace == []) = true := by decide
theorem witness_IllegalWord_reserved_bit : ∀ i, (0x80000001#32 : Word) ≠ encode i := fun i => by cases i <;> decide
theorem witness_IllegalWord_scope_three : ∀ i, (0x00000038#32 : Word) ≠ encode i := fun i => by cases i <;> decide
theorem witness_IllegalWord_scope_not_taken : ∀ i, (0x00000011#32 : Word) ≠ encode i := fun i => by cases i <;> decide
theorem witness_IllegalWord_op_fifteen : ∀ i, (0x0000000F#32 : Word) ≠ encode i := fun i => by cases i <;> decide
theorem witness_StepRunsTheLatchedCommand :
    (busy .pad State.reset).status.busy = true ∧ decode (busy .pad State.reset).lcmd = .ok .pad ∧
    (busy .pad State.reset).agenda = [] ∧ (next (busy .pad State.reset) .sequencer).agenda = .sequencer :: [] := by decide
theorem witness_StepTakesTheNextEntry :
    (next State.reset (.read 0 4)).agenda = [.read 0 4] ∧ (next State.reset (.write 4 4 1#32)).agenda = [.write 4 4 1#32] ∧
    (next State.reset (.reset [] 0#32)).agenda = [.reset [] 0#32] ∧ State.reset.status.busy = false ∧
    (next State.reset .sequencer).agenda = [.sequencer] ∧ State.reset.agenda = [] := by decide
theorem witness_IssuedCommandCompletes :
    (busy .mac (scene hello)).status.busy = true ∧
    ∀ e ∈ ({ busy .mac (scene hello) with agenda := [.read 8 4, .write 4 4 1#32, .sequencer] } : State).agenda,
      e.isReset = false := by decide
theorem witness_EveryStepKeepsTheInvariant : (busy .sealCt (scene hello)).Inv ∧
    lands (step (busy .sealCt (scene hello))) (fun t => t.dstLen == 16#32) = true :=
  ⟨by unfold State.Inv; decide, by decide +kernel⟩
theorem witness_EveryStepKeepsTheInvariant_smallest : State.Inv { State.reset with memSize := 64#32 } := by
  unfold State.Inv; decide
theorem witness_EveryStepKeepsTheInvariant_largest : State.Inv { State.reset with memSize := 0x100000#32 } := by
  unfold State.Inv; decide
theorem witness_CommandWriteIssues :
    State.reset.status.busy = false ∧ (busy .pad State.reset).status.busy = true ∧
    (next State.reset (.write 0x04 4 0xFFFFFFFF#32)).agenda = [.write 0x04 4 0xFFFFFFFF#32] := by decide
theorem witness_ErrorCompletionWritesOnlyStatus :
    lands (exec .unpad (busy .unpad (scene hello))) (fun t => t.status.err == some .paddingError) = true ∧
    (busy .unpad (scene hello)).JustIssued := by decide
theorem witness_CommandsKeepTheirInputs :
    Instr.pad ≠ .wipe ∧ lands (exec .pad (scene hello)) (fun t => t.dstLen == 16#32) = true ∧
    (0x1FF < (scene hello).dstAddr.toNat ∨ (scene hello).dstAddr.toNat + 16 ≤ 0x1FF) ∧
    (0x210 < (scene hello).dstAddr.toNat ∨ (scene hello).dstAddr.toNat + 16 ≤ 0x210) ∧
    outMax .mac (scene hello).srcLen.toNat = none ∧ lands (exec .validate (scene hello)) (fun _ => true) = true := by decide
theorem witness_OutcomeDependsOnOperandsOnly :
    (busy .pad (scene hello)).JustIssued ∧ (busy .pad { scene hello with ckeyLen := 5#32 }).JustIssued ∧
    usesSource .pad = true ∧ (busy .pad (scene hello)).SourceInMem ∧ scene hello ≠ { scene hello with ckeyLen := 5#32 } ∧
    lands (exec .pad (busy .pad (scene hello))) (fun t => t.dstLen == 16#32) = true := by decide
theorem witness_OutcomeDependsOnOperandsOnly_same :
    SameOperands .pad (busy .pad (scene hello)) (busy .pad { scene hello with ckeyLen := 5#32 }) :=
  ⟨rfl, rfl, rfl, rfl, rfl⟩
theorem witness_AddressErrorExactlyOutsideMem_source :
    usesSource .mac = true ∧ ¬ State.SourceInMem { scene hello with srcAddr := 4092#32 } := by decide
theorem witness_AddressErrorExactlyOutsideMem_room :
    outMax .pad (scene hello).srcLen.toNat = some 16 ∧
    ¬ State.RoomFor { scene hello with dstAddr := 4081#32 } 16 ∧ (scene hello).SourceInMem := by decide
theorem witness_AddressErrorExactlyOutsideMem_fits :
    State.SourceInMem { scene hello with srcAddr := 4091#32 } ∧
    State.RoomFor { scene hello with dstAddr := 4080#32 } 16 ∧
    lands (exec .pad { scene hello with srcAddr := 4091#32, dstAddr := 4080#32 }) (fun t => t.status.err == none) = true := by decide
theorem witness_CompletionSetsDoneAndRaisesIrq :
    lands (exec .verify (busy .verify { scene hello with ctrl := { ie := true } })) (fun t => t.irq) = true := by decide +kernel
/-- The scene after a completion with the interrupt enabled. -/
def raised : State :=
  { scene hello with status := { (scene hello).status with done := true }, ctrl := { ie := true } }

theorem witness_CompletionSetsDoneAndRaisesIrq_irq : raised.irq = true ∧ raised.status.busy = false ∧
    (next raised (.write 0x04 4 2#32)).agenda = [.write 0x04 4 2#32] ∧
    (next raised (.write 0x08 4 2#32)).agenda = [.write 0x08 4 2#32] ∧
    (next raised (.write 0x0C 4 0#32)).agenda = [.write 0x0C 4 0#32] ∧
    (next raised (.reset [] 0#32)).agenda = [.reset [] 0#32] := by decide
/-- 60_exceptions.md R250: an issue lowers `irq`, and so does clearing IE. -/
theorem test_irq_lowered : lands (step (next raised (.write 0x04 4 2#32))) (fun t => !t.irq && t.ctrl.ie) = true ∧
    lands (step (next raised (.write 0x0C 4 0#32))) (fun t => !t.irq && t.status.done) = true := by decide
theorem witness_PhasesFollowTheTable :
    lands (exec .openPt (busy .openPt (sceneTag helloCipher tagBad))) (fun t =>
      t.trace == [.v, .dec, .unpad, .mac, .cmp] && t.status.err == some .authenticationFailure) = true := by decide +kernel
theorem witness_VerifiedBeforeDecrypted :
    MacScope.ivThenCiphertext ≠ .plaintextOnly ∧ (sceneTag helloCipher tagIvct).trace = [] ∧
    lands (exec (openOf .ivThenCiphertext) (sceneTag helloCipher tagIvct)) (fun t => t.trace.contains .dec) = true := by decide +kernel
theorem witness_BusErrorsChangeNothing :
    ∀ access ∈ [(0x34, 4), (0x3C, 4), (0x98, 4), (0x9C, 4), (0xA8, 4), (0xFFC, 4), (0x00, 2), (0x02, 4), (0x1000, 0),
      (0x1000, 3), (0x1001, 2), (0x1FFE, 4), (0x2000, 1)], ¬ AccessInOrder State.reset.memSize.toNat access.1 access.2 := by decide
theorem witness_BusErrorsChangeNothing_entries :
    (next State.reset (.read 0x2000 1)).agenda = [.read 0x2000 1] ∧
    (next State.reset (.write 0x34 4 1#32)).agenda = [.write 0x34 4 1#32] := by decide
theorem witness_ReadsHaveNoSideEffect :
    ∀ access ∈ [(0x00, 4), (0x30, 4), (0x40, 4), (0x94, 4), (0xA0, 4), (0xA4, 4), (0x1000, 1), (0x1FFF, 1), (0x1FFE, 2),
      (0x1FFC, 4)], AccessInOrder State.reset.memSize.toNat access.1 access.2 ∧
    (next State.reset (.read access.1 access.2)).agenda = [.read access.1 access.2] := by decide
theorem witness_WritesWhileBusyAreDropped :
    (next (busy .pad State.reset) (.write 0x1FFC 4 1#32)).status.busy = true ∧
    AccessInOrder (busy .pad State.reset).memSize.toNat 0x1FFC 4 ∧
    (next (busy .pad State.reset) (.write 0x1FFC 4 1#32)).agenda = [.write 0x1FFC 4 1#32] := by decide
theorem witness_ReadOnlyRegistersIgnoreWrites :
    ∀ off ∈ [0x00, 0x1C, 0x30, 0xA0, 0xA4], (next (scene hello) (.write off 4 7#32)).agenda = [.write off 4 7#32] ∧
    (scene hello).status.busy = false := by decide
theorem witness_RegisterReadsAnswer :
    (0x00, (0x43424331#32 : Word)) ∈ [(0x00, (0x43424331#32 : Word)), (0x04, 0#32)] ∧ (0x30, (scene hello).memSize) ∈
      [(0x2C, (scene hello).tagiLen), (0x30, (scene hello).memSize)] ∧
    (0x40 ≤ 0x40 ∧ 0x40 < 0x80 ∧ 0x40 % 4 = 0) ∧ (0x40 ≤ 0x7C ∧ 0x7C < 0x80 ∧ 0x7C % 4 = 0) ∧
    (3 < 4 ∧ 0x8C = 0x80 + 4 * 3) ∧ (1 < 2 ∧ 0x94 = 0x90 + 4 * 1) ∧ (0xA4 = 0xA0 + 4 * 1) ∧
    (next (scene hello) (.read 0xA4 4)).agenda = [.read 0xA4 4] := by decide
theorem witness_HostNeverSeesHiddenState :
    SameButHidden (next (scene hello) (.read 0x40 4)) (next { scene hello with mkey := Vector.replicate 32 0#8 } (.read 0x40 4)) ∧
    Event.read 0x40 4 ≠ .sequencer ∧ (Event.read 0x40 4).isReset = false ∧
    lands (step (next (scene hello) (.read 0x40 4))) (fun t => t.resp == .data 0#32) = true :=
  ⟨rfl, by decide, rfl, by decide⟩
theorem witness_RegisterWordsAreLittleEndian :
    (scene hello).status.busy = false ∧
    (next (scene hello) (.write (0x40 + 4 * 7) 4 1#32)).agenda = [.write 0x5C 4 1#32] ∧
    (next (scene hello) (.write (0x60 + 4 * 7) 4 1#32)).agenda = [.write 0x7C 4 1#32] ∧
    (next (scene hello) (.write (0x80 + 4 * 3) 4 1#32)).agenda = [.write 0x8C 4 1#32] ∧
    (next (scene hello) (.write (0x90 + 4 * 1) 4 1#32)).agenda = [.write 0x94 4 1#32] ∧
    (next (scene hello) (.read (0x80 + 4 * 3) 4)).agenda = [.read 0x8C 4] ∧
    (next (scene hello) (.read (0x90 + 4 * 1) 4)).agenda = [.read 0x94 4] ∧
    (next (scene hello) (.read (0xA0 + 4 * 1) 4)).agenda = [.read 0xA4 4] := by decide
theorem witness_LengthAndDescriptorRegistersStoreAnyValue :
    ∀ off ∈ [0x10, 0x14, 0x18, 0x20, 0x24, 0x28, 0x2C], (scene hello).status.busy = false ∧
    (next (scene hello) (.write off 4 0xFFFFFFFF#32)).agenda = [.write off 4 0xFFFFFFFF#32] := by decide
theorem witness_StatusLayoutAndWriteOneToClear :
    (scene hello).status.busy = false ∧ (next (scene hello) (.write 0x08 4 0xA#32)).agenda = [.write 0x08 4 0xA#32] := by decide
theorem witness_CtrlKeepsOnlyItsEnableBit :
    (scene hello).status.busy = false ∧ (next (scene hello) (.write 0x0C 4 3#32)).agenda = [.write 0x0C 4 3#32] ∧
    lands (exec .wipe (scene hello)) (fun _ => true) = true := by decide
theorem witness_WindowIsLittleEndian :
    ∀ access ∈ [(4095, 1), (4094, 2), (4092, 4), (0, 1)], (access.2 = 1 ∨ access.2 = 2 ∨ access.2 = 4) ∧
    access.1 % access.2 = 0 ∧ access.1 + access.2 ≤ (scene hello).memSize.toNat ∧ (scene hello).status.busy = false ∧
    (next (scene hello) (.write (0x1000 + access.1) access.2 5#32)).agenda = [.write (0x1000 + access.1) access.2 5#32] ∧
    (next (scene hello) (.read (0x1000 + access.1) access.2)).agenda = [.read (0x1000 + access.1) access.2] := by decide
theorem witness_ResetLeavesMemOpen :
    (next (busy .pad State.reset) (.reset [(4095, 1#8), (4096, 1#8)] 7#32)).agenda = [.reset [(4095, 1#8), (4096, 1#8)] 7#32] := by decide
theorem witness_MemoryIsItsContents : Memory.wf [(1, 2#8), (4095, 1#8)] ∧
    Memory.write (Memory.write [] 4095 1#8) 1 2#8 = [(1, 2#8), (4095, 1#8)] := by decide
theorem witness_UnpadInvertsPad :
    unpad helloPadded = some hello := by decide
theorem witness_PaddingScanAgreesWithUnpad :
    16 ≤ helloPadded.length ∧ helloPadded.length % 16 = 0 ∧ paddingScanFails helloPadded = false ∧
    paddingScanFails helloCipher = true := by decide
theorem witness_ConstantTimeComparisonIsEquality :
    tagCt.length = 8 ∧ tagIvct.length = 8 := by decide
theorem witness_VerifyIsEqualityWithTheTag :
    tagCt.length = 8 ∧ verify (List.replicate 32 0x11#8) helloCipher tagCt 8#32 = true := by decide +kernel
theorem witness_BlockCipherIsInvertible :
    (List.replicate 16 0#8 : List Byte).length = 16 ∧ (List.replicate 32 0#8 : List Byte).length = 32 ∧ helloCipher.length = 16 := by decide
theorem witness_CbcChainsTheBlocks :
    (List.replicate 16 0x22#8 : List Byte).length = 16 ∧ helloPadded.length = 16 ∧ (helloPadded ++ helloCipher).length % 16 = 0 := by decide
theorem witness_CbcRoundTrip :
    (List.replicate 32 0#8 : List Byte).length = 32 ∧ (List.replicate 16 0x22#8 : List Byte).length = 16 ∧ helloPadded.length % 16 = 0 := by decide
theorem witness_CbcChangesStayLocal :
    (List.replicate 16 0x22#8 : List Byte).length = 16 ∧ (1#8 :: List.replicate 15 0#8 : List Byte).length = 16 ∧
    helloCipher.length = 16 ∧ ([] : List Byte).length % 16 = 0 := by decide
theorem witness_ShaPaddingFillsWholeBlocks :
    8 * hello.length < 2 ^ 64 ∧ 8 * (List.replicate 56 0#8 : List Byte).length < 2 ^ 64 := by decide
/-! For each command: a witness for each clause of its statement. -/

theorem witness_Validate_ok :
    (scene []).LengthsOk ∧ State.LengthsOk { scene [] with ckeyLen := 16#32 } := by decide
theorem witness_Validate_keys :
    ¬ State.KeysOk { scene [] with ckeyLen := 15#32 } ∧ ¬ State.KeysOk { scene [] with ckeyLen := 33#32 } ∧
    ¬ State.KeysOk { scene [] with mkeyLen := 31#32 } ∧ ¬ State.KeysOk State.reset := by decide
theorem witness_Validate_iv :
    State.KeysOk { scene [] with ivLen := 15#32 } ∧ ({ scene [] with ivLen := 15#32 } : State).ivLen ≠ 16#32 := by decide
theorem witness_Pad :
    State.SourceInMem { scene hello with dstAddr := 4080#32 } ∧
    State.RoomFor { scene hello with dstAddr := 4080#32 } (16 * (5 / 16 + 1)) ∧ (scene hello).srcLen.toNat = 5 ∧
    ¬ State.RoomFor { scene hello with dstAddr := 4081#32 } 16 ∧ ¬ State.SourceInMem { scene hello with srcAddr := 4092#32 } := by decide
theorem witness_Unpad :
    (scene helloPadded).SourceInMem ∧ (scene helloPadded).RoomFor 16 ∧ (scene helloPadded).srcLen.toNat = 16 ∧
    unpad (scene helloPadded).source = some hello ∧ unpad (scene helloCipher).source = none ∧ (scene helloCipher).RoomFor 16 ∧
    unpad (scene []).source = none ∧ ¬ State.RoomFor { scene helloPadded with dstAddr := 4081#32 } 16 := by decide
theorem witness_EncryptDecrypt :
    (scene helloPadded).SourceInMem ∧ (scene helloPadded).RoomFor (scene helloPadded).srcLen.toNat ∧
    (scene helloPadded).CipherKeyOk ∧ (scene helloPadded).ivLen = 16#32 ∧ (scene helloPadded).srcLen.toNat % 16 = 0 ∧
    (scene hello).SourceInMem ∧ (scene hello).RoomFor (scene hello).srcLen.toNat ∧ (scene hello).CipherKeyOk ∧
    (scene hello).ivLen = 16#32 ∧ (scene hello).srcLen.toNat % 16 ≠ 0 ∧
    ¬ State.CipherKeyOk { scene hello with ckeyLen := 24#32 } ∧ ({ scene hello with ivLen := 17#32 } : State).ivLen ≠ 16#32 ∧
    ¬ State.SourceInMem { scene hello with srcAddr := 4092#32 } := by decide
theorem witness_MacVerify :
    (scene hello).SourceInMem ∧ (scene hello).mkeyLen = 32#32 ∧ (scene hello).tagiLen = 8#32 ∧
    ({ scene hello with tagiLen := 9#32 } : State).tagiLen ≠ 8#32 ∧ ({ scene hello with mkeyLen := 33#32 } : State).mkeyLen ≠ 32#32 ∧
    ¬ State.SourceInMem { scene hello with srcAddr := 4092#32 } := by decide
theorem witness_Seal :
    (scene hello).SourceInMem ∧ (scene hello).RoomFor (16 * ((scene hello).srcLen.toNat / 16 + 1)) ∧
    (scene hello).LengthsOk ∧ ¬ State.RoomFor { scene hello with dstAddr := 4081#32 } 16 ∧
    ¬ State.KeysOk { scene hello with mkeyLen := 16#32 } ∧
    State.KeysOk { scene hello with ivLen := 0#32 } ∧ ({ scene hello with ivLen := 0#32 } : State).ivLen ≠ 16#32 := by decide
theorem witness_Open_lengths :
    (scene helloCipher).SourceInMem ∧ (scene helloCipher).RoomFor (scene helloCipher).srcLen.toNat ∧
    (scene helloCipher).LengthsOk ∧ ¬ State.RoomFor { scene helloCipher with dstAddr := 4081#32 } 16 ∧
    ¬ State.KeysOk { scene helloCipher with ckeyLen := 17#32 } ∧ State.KeysOk { scene helloCipher with ivLen := 15#32 } ∧
    ({ scene helloCipher with ivLen := 15#32 } : State).ivLen ≠ 16#32 ∧ ({ scene helloCipher with tagiLen := 7#32 } : State).tagiLen ≠ 8#32 := by decide
/-- The scene whose MAC key and tag fit an input that is no whole block, for OPEN.CT. -/
def oddScene : State := { sceneTag hello [] with tagi := fileOfBytes 8 (mac (List.replicate 32 0x11#8) hello) }

/-- The scene whose tag is good and whose padding is bad, for OPEN.CT: 16 ciphertext bytes 0. -/
def badPadding : State :=
  { sceneTag (List.replicate 16 0#8) [] with tagi := fileOfBytes 8 (mac (List.replicate 32 0x11#8) (List.replicate 16 0#8)) }

theorem witness_Open_bad_tag :
    (sceneTag helloCipher tagBad).LengthsOk ∧ (sceneTag helloCipher tagBad).tagiLen = 8#32 ∧
    mac (sceneTag helloCipher tagBad).mkey.toList (macInput .ciphertextOnly (sceneTag helloCipher tagBad).iv.toList (sceneTag helloCipher tagBad).source []) ≠
      (sceneTag helloCipher tagBad).tagi.toList := by decide +kernel
theorem witness_Open_odd_length :
    oddScene.LengthsOk ∧ oddScene.SourceInMem ∧ oddScene.RoomFor 5 ∧ oddScene.tagiLen = 8#32 ∧
    mac oddScene.mkey.toList (macInput .ciphertextOnly oddScene.iv.toList oddScene.source []) = oddScene.tagi.toList ∧ oddScene.srcLen.toNat % 16 ≠ 0 := by decide +kernel
theorem witness_Open_bad_padding :
    badPadding.LengthsOk ∧ badPadding.SourceInMem ∧ badPadding.RoomFor 16 ∧ badPadding.tagiLen = 8#32 ∧
    mac badPadding.mkey.toList (macInput .ciphertextOnly badPadding.iv.toList badPadding.source []) = badPadding.tagi.toList ∧
    badPadding.srcLen.toNat % 16 = 0 ∧
    unpad (cbcDec (badPadding.ckey.toList.take badPadding.ckeyLen.toNat) badPadding.iv.toList badPadding.source) = none := by decide +kernel
theorem witness_Open_good :
    (sceneTag helloCipher tagIvct).LengthsOk ∧ (sceneTag helloCipher tagIvct).tagiLen = 8#32 ∧
    mac (sceneTag helloCipher tagIvct).mkey.toList (macInput .ivThenCiphertext (sceneTag helloCipher tagIvct).iv.toList (sceneTag helloCipher tagIvct).source []) =
      (sceneTag helloCipher tagIvct).tagi.toList ∧ (sceneTag helloCipher tagIvct).srcLen.toNat % 16 = 0 ∧
    unpad (cbcDec ((sceneTag helloCipher tagIvct).ckey.toList.take (sceneTag helloCipher tagIvct).ckeyLen.toNat)
      (sceneTag helloCipher tagIvct).iv.toList (sceneTag helloCipher tagIvct).source) = some hello := by decide +kernel
theorem witness_OpenPlaintext :
    (sceneTag helloCipher tagPt).LengthsOk ∧ (sceneTag helloCipher tagPt).srcLen.toNat % 16 = 0 ∧
    unpad (cbcDec ((sceneTag helloCipher tagPt).ckey.toList.take (sceneTag helloCipher tagPt).ckeyLen.toNat)
      (sceneTag helloCipher tagPt).iv.toList (sceneTag helloCipher tagPt).source) = some hello ∧
    mac (sceneTag helloCipher tagPt).mkey.toList hello = (sceneTag helloCipher tagPt).tagi.toList ∧
    mac (sceneTag helloCipher tagBad).mkey.toList hello ≠ (sceneTag helloCipher tagBad).tagi.toList ∧
    (scene hello).LengthsOk ∧ (scene hello).srcLen.toNat % 16 ≠ 0 := by decide +kernel
theorem witness_OpenReturnsWhatSealSealed :
    (scene hello).LengthsOk ∧ (scene hello).SourceInMem ∧ (scene hello).RoomFor (16 * (5 / 16 + 1)) ∧
    lands (exec (sealOf .ciphertextOnly) (scene hello)) (fun t =>
      (sceneTag helloCipher tagCt).tagi == t.tago &&
      (sceneTag helloCipher tagCt).source == Memory.readN t.mem (scene hello).dstAddr.toNat t.dstLen.toNat) = true ∧
    (sceneTag helloCipher tagCt).envelopeParams = (scene hello).envelopeParams ∧ (sceneTag helloCipher tagCt).tagiLen = 8#32 ∧
    (sceneTag helloCipher tagCt).SourceInMem ∧
    (sceneTag helloCipher tagCt).RoomFor (sceneTag helloCipher tagCt).srcLen.toNat := by decide +kernel
/-- One run fails on the tag, the other, with other keys, on the padding; the host sees the same before. -/
theorem witness_OpenFailuresLookAlike :
    lands (exec (openOf .ciphertextOnly) badPadding) (fun t =>
      t.status.err == some .authenticationFailure && t.trace == [.v, .mac, .cmp, .dec, .unpad]) = true ∧
    lands (exec (openOf .ciphertextOnly) { badPadding with mkey := Vector.replicate 32 0#8 }) (fun t =>
      t.status.err == some .authenticationFailure && t.trace == [.v, .mac, .cmp]) = true ∧
    ({ badPadding with mkey := Vector.replicate 32 0#8 } : State).memSize = badPadding.memSize := by decide +kernel
theorem witness_OpenFailuresLookAlike_view :
    ({ badPadding with mkey := Vector.replicate 32 0#8 } : State).hostView = badPadding.hostView := rfl
theorem witness_OpenFailuresLookAlike_issued : (busy .openCt badPadding).JustIssued ∧
    State.JustIssued { busy .openCt badPadding with status := (busy .openCt badPadding).status.locked } :=
  ⟨⟨rfl, rfl, rfl, rfl, rfl⟩, ⟨rfl, rfl, rfl, rfl, rfl⟩⟩

end Sys2Proof.Tests
end

namespace Sys2Proof.Machine

/-! ### The block primitive undoes itself (00_scope.md R9)

Each round transformation of 48_prim_aes.md has its inverse; the two ciphers then cancel round by round from the
inside out, whatever the round keys are. -/

/-! #### Multiplication by the constants of `MixColumns` (48_prim_aes.md R202, R207) -/

theorem xor_left_comm (a b c : Byte) : a ^^^ (b ^^^ c) = b ^^^ (a ^^^ c) := by
  rw [← BitVec.xor_assoc, BitVec.xor_comm a b, BitVec.xor_assoc]

theorem xtime_xor (a b : Byte) : xtime (a ^^^ b) = xtime a ^^^ xtime b := by
  simp only [xtime, BitVec.getLsbD_xor, BitVec.shiftLeft_xor_distrib]
  cases a.getLsbD 7 <;> cases b.getLsbD 7 <;>
    simp [BitVec.xor_assoc, BitVec.xor_comm, xor_left_comm]

theorem gfMul_02 (a : Byte) : gfMul a 0x02#8 = xtime a := by
  simp [gfMul, gfMulBits]

theorem gfMul_03 (a : Byte) : gfMul a 0x03#8 = a ^^^ xtime a := by
  simp [gfMul, gfMulBits]

theorem gfMul_09 (a : Byte) : gfMul a 0x09#8 = a ^^^ xtime (xtime (xtime a)) := by
  simp [gfMul, gfMulBits]

theorem gfMul_0b (a : Byte) : gfMul a 0x0b#8 = a ^^^ (xtime a ^^^ xtime (xtime (xtime a))) := by
  simp [gfMul, gfMulBits]

theorem gfMul_0d (a : Byte) : gfMul a 0x0d#8 = a ^^^ (xtime (xtime a) ^^^ xtime (xtime (xtime a))) := by
  simp [gfMul, gfMulBits]

theorem gfMul_0e (a : Byte) : gfMul a 0x0e#8 = xtime a ^^^ (xtime (xtime a) ^^^ xtime (xtime (xtime a))) := by
  simp [gfMul, gfMulBits]

/-- `MixColumns` applied twice to a column (`mixColumn_mixColumn`): each byte takes in four times the sum of itself and
the byte two places away. -/
def mixColumnTwice (w : AesColumn) : AesColumn :=
  let u := xtime (xtime (w.a0 ^^^ w.a2))
  let v := xtime (xtime (w.a1 ^^^ w.a3))
  { a0 := w.a0 ^^^ u, a1 := w.a1 ^^^ v, a2 := w.a2 ^^^ u, a3 := w.a3 ^^^ v }

theorem mixColumn_mixColumn (w : AesColumn) : mixColumn (mixColumn w) = mixColumnTwice w := by
  obtain ⟨a, b, c, d⟩ := w
  simp only [mixColumn, mixColumnTwice, gfMul_02, gfMul_03, xtime_xor]
  -- The doublings stay opaque, so that sorting the sums compares variables only.
  generalize xtime a = a2, xtime b = b2, xtime c = c2, xtime d = d2
  generalize xtime a2 = a4, xtime b2 = b4, xtime c2 = c4, xtime d2 = d4
  simp [BitVec.xor_assoc, BitVec.xor_comm, xor_left_comm]

theorem mixColumnTwice_mixColumnTwice (w : AesColumn) : mixColumnTwice (mixColumnTwice w) = w := by
  simp [mixColumnTwice, BitVec.xor_assoc]

/-- The matrix of `InvMixColumns` is the third power of that of `MixColumns`, whose fourth power is the identity. -/
theorem invMixColumn_eq (w : AesColumn) : invMixColumn w = mixColumn (mixColumnTwice w) := by
  obtain ⟨a, b, c, d⟩ := w
  simp only [invMixColumn, mixColumn, mixColumnTwice, gfMul_02, gfMul_03, gfMul_09, gfMul_0b, gfMul_0d, gfMul_0e,
    xtime_xor]
  generalize xtime a = a2, xtime b = b2, xtime c = c2, xtime d = d2
  generalize xtime a2 = a4, xtime b2 = b4, xtime c2 = c4, xtime d2 = d4
  generalize xtime a4 = a8, xtime b4 = b8, xtime c4 = c8, xtime d4 = d8
  simp [BitVec.xor_assoc, BitVec.xor_comm, xor_left_comm]

theorem mixColumn_invMixColumn (w : AesColumn) : mixColumn (invMixColumn w) = w := by
  rw [invMixColumn_eq, mixColumn_mixColumn, mixColumnTwice_mixColumnTwice]

theorem invMixColumn_mixColumn (w : AesColumn) : invMixColumn (mixColumn w) = w := by
  rw [invMixColumn_eq, ← mixColumn_mixColumn, mixColumn_mixColumn w, mixColumn_mixColumn,
    mixColumnTwice_mixColumnTwice]

/-! #### The round transformations (48_prim_aes.md R203 to R208) -/

theorem invSbox_sbox (a : Byte) : invSbox (sbox a) = a := by
  revert a; decide +kernel

theorem sbox_invSbox (a : Byte) : sbox (invSbox a) = a := by
  revert a; decide +kernel

theorem AesColumn.map_map_cancel {f g : Byte → Byte} (h : Function.LeftInverse g f) (w : AesColumn) :
    (w.map f).map g = w := by
  simp [AesColumn.map, h _]

theorem AesState.mapColumns_mapColumns_cancel {f g : AesColumn → AesColumn} (h : Function.LeftInverse g f)
    (s : AesState) : (s.mapColumns f).mapColumns g = s := by
  simp [AesState.mapColumns, h _]

@[simp] theorem invSubBytes_subBytes (s : AesState) : invSubBytes (subBytes s) = s :=
  s.mapColumns_mapColumns_cancel (AesColumn.map_map_cancel invSbox_sbox)

@[simp] theorem subBytes_invSubBytes (s : AesState) : subBytes (invSubBytes s) = s :=
  s.mapColumns_mapColumns_cancel (AesColumn.map_map_cancel sbox_invSbox)

@[simp] theorem invShiftRows_shiftRows (s : AesState) : invShiftRows (shiftRows s) = s := rfl

@[simp] theorem shiftRows_invShiftRows (s : AesState) : shiftRows (invShiftRows s) = s := rfl

@[simp] theorem invMixColumns_mixColumns (s : AesState) : invMixColumns (mixColumns s) = s :=
  s.mapColumns_mapColumns_cancel invMixColumn_mixColumn

@[simp] theorem mixColumns_invMixColumns (s : AesState) : mixColumns (invMixColumns s) = s :=
  s.mapColumns_mapColumns_cancel mixColumn_invMixColumn

@[simp] theorem addRoundKey_addRoundKey (k s : AesState) : addRoundKey k (addRoundKey k s) = s := by
  simp [addRoundKey, AesColumn.xor]

/-! #### The ciphers (48_prim_aes.md R211, R212) -/

/-- The rounds cancel from the inside out: where a step of `g` undoes the step of `f` with the same key, seen through
`h`, the fold of `g` over the reversed keys undoes the fold of `f`. -/
theorem foldl_reverse_foldl_cancel {α β : Type} {f g : β → α → β} {h : β → β}
    (cancel : ∀ s k, g (h (f s k)) k = h s) (ks : List α) (s : β) :
    ks.reverse.foldl g (h (ks.foldl f s)) = h s := by
  induction ks generalizing s with
  | nil => rfl
  | cons k ks ih => simp [ih, cancel]

/-- A round of the inverse cipher undoes the round with the same key, seen through the `SubBytes` and `ShiftRows` of
the round after it. -/
theorem decRound_encRound (s k : AesState) :
    decRound (shiftRows (subBytes (encRound s k))) k = shiftRows (subBytes s) := by
  simp [decRound, encRound]

theorem encRound_decRound (s k : AesState) :
    encRound (invSubBytes (invShiftRows (decRound s k))) k = invSubBytes (invShiftRows s) := by
  simp [decRound, encRound]

theorem aesDecrypt_aesEncrypt (first last : AesState) (middle : List AesState) (s : AesState) :
    aesDecrypt first last middle (aesEncrypt first last middle s) = s := by
  have rounds := foldl_reverse_foldl_cancel (h := shiftRows ∘ subBytes) decRound_encRound middle (addRoundKey first s)
  simp only [Function.comp_apply] at rounds
  simp [aesDecrypt, aesEncrypt, rounds]

theorem aesEncrypt_aesDecrypt (first last : AesState) (middle : List AesState) (s : AesState) :
    aesEncrypt first last middle (aesDecrypt first last middle s) = s := by
  have rounds := foldl_reverse_foldl_cancel (h := invSubBytes ∘ invShiftRows) encRound_decRound middle.reverse
    (addRoundKey last s)
  simp only [Function.comp_apply, List.reverse_reverse] at rounds
  simp [aesDecrypt, aesEncrypt, rounds, -List.foldl_reverse]

/-! #### Blocks (48_prim_aes.md R200) -/

@[simp] theorem aesStateOf_block (s : AesState) : aesStateOf s.block = s := rfl

theorem block_aesStateOf {b : List Byte} (hb : b.length = 16) : (aesStateOf b).block = b := by
  have bytes : (aesStateOf b).block = (List.range 16).map fun i => b.getD i 0#8 := rfl
  rw [bytes]
  apply List.ext_getElem
  · simp [hb]
  · intro i _ hi
    simp [hi]

theorem blockDec_blockEnc (k : List Byte) {b : List Byte} (hb : b.length = 16) : blockDec k (blockEnc k b) = b := by
  simp [blockDec, blockEnc, aesDecrypt_aesEncrypt, block_aesStateOf hb]

theorem blockEnc_blockDec (k : List Byte) {b : List Byte} (hb : b.length = 16) : blockEnc k (blockDec k b) = b := by
  simp [blockDec, blockEnc, aesEncrypt_aesDecrypt, block_aesStateOf hb]

/-- Settles O39: the rounds cancel pairwise for any round keys, so for those of any key. -/
theorem blockCipherIsInvertible : Obligations.BlockCipherIsInvertible := by
  intro k b _ hb
  exact ⟨blockDec_blockEnc k hb, blockEnc_blockDec k hb⟩

end Sys2Proof.Machine

namespace Sys2Proof.Machine

/-! ### The host interface (20_memory.md R62 to R70)

`resolve` decides what an access reaches. The laws of the step speak of what `resolve` answers, the statements of
offsets and sizes; the lemmas here lead from the one to the other. -/

/-! #### The register map (R62) -/

/-- The offsets of the register map are the mapped ones: four times a number below 42, less the gaps. -/
theorem regMap_lookup_isSome_iff (off : Nat) : (regMap.lookup off).isSome ↔ MappedOffset off := by
  constructor
  · intro h
    obtain ⟨r, hr⟩ := Option.isSome_iff_exists.1 h
    have mapped : ∀ entry ∈ regMap, MappedOffset entry.1 := by decide
    exact mapped _ (mem_of_lookup hr)
  · intro h
    have listed : ∀ q < 42, MappedOffset (4 * q) → (regMap.lookup (4 * q)).isSome := by decide
    obtain ⟨q, rfl⟩ := Nat.dvd_of_mod_eq_zero h.1
    exact listed q (by omega) h

theorem regMap_lookup_ckeyW : ∀ k < 8, regMap.lookup (0x40 + 4 * k) = some (.ckeyW k) := by decide

theorem regMap_lookup_mkeyW : ∀ k < 8, regMap.lookup (0x60 + 4 * k) = some (.mkeyW k) := by decide

theorem regMap_lookup_ivW : ∀ k < 4, regMap.lookup (0x80 + 4 * k) = some (.ivW k) := by decide

theorem regMap_lookup_tagiW : ∀ k < 2, regMap.lookup (0x90 + 4 * k) = some (.tagiW k) := by decide

theorem regMap_lookup_tagoW : ∀ k < 2, regMap.lookup (0xA0 + 4 * k) = some (.tagoW k) := by decide

/-- The offsets of R69 reach ID, DST_LEN, MEM_SIZE and the two words of TAGO, which no write changes. -/
theorem regMap_lookup_readOnly {off : Nat} (h : off ∈ [0x00, 0x1C, 0x30, 0xA0, 0xA4]) :
    ∃ r, regMap.lookup off = some r ∧ ∀ (s : State) (v : Word), s.writeReg r v = s := by
  simp only [List.mem_cons, List.not_mem_nil, or_false] at h
  rcases h with rfl | rfl | rfl | rfl | rfl
  · exact ⟨.id, rfl, fun _ _ => rfl⟩
  · exact ⟨.dstLen, rfl, fun _ _ => rfl⟩
  · exact ⟨.memSize, rfl, fun _ _ => rfl⟩
  · exact ⟨.tagoW 0, rfl, fun _ _ => rfl⟩
  · exact ⟨.tagoW 1, rfl, fun _ _ => rfl⟩

/-! #### Accesses in order (R65, R66) -/

/-- An access that reaches a register is a 4-byte access at its offset. -/
theorem resolve_reg {n off size : Nat} {r : Reg} (h : resolve n off size = some (.reg r)) :
    off < 0x1000 ∧ size = 4 ∧ regMap.lookup off = some r := by
  unfold resolve at h
  split at h
  · rename_i hoff
    split at h
    · rename_i haccess
      exact ⟨hoff, haccess.1, by simpa using h⟩
    · cases h
  · split at h <;> cases h

/-- An access reaches something exactly when it is in order. -/
theorem resolve_isSome_iff (n off size : Nat) : (resolve n off size).isSome ↔ AccessInOrder n off size := by
  constructor
  · intro h
    obtain ⟨t, ht⟩ := Option.isSome_iff_exists.1 h
    cases t with
    | reg r =>
      obtain ⟨hoff, hsize, hlookup⟩ := resolve_reg ht
      exact .inl ⟨hoff, hsize, (regMap_lookup_isSome_iff off).1 (by rw [hlookup]; rfl)⟩
    | mem a =>
      obtain ⟨rfl, hsize, halign, hroom⟩ := resolve_mem ht
      refine .inr ⟨by omega, hsize, ?_, by omega⟩
      rcases hsize with rfl | rfl | rfl <;> omega
  · rintro (⟨_, rfl, hmapped⟩ | ⟨hbase, hsize, halign, hroom⟩)
    · obtain ⟨r, hr⟩ := Option.isSome_iff_exists.1 ((regMap_lookup_isSome_iff off).2 hmapped)
      rw [resolve_register n hr]; rfl
    · obtain ⟨a, rfl⟩ := Nat.exists_eq_add_of_le hbase
      have ha : a % size = 0 := by rcases hsize with rfl | rfl | rfl <;> omega
      rw [resolve_window hsize ha (by omega)]; rfl

/-- An access out of order reaches nothing (R66). -/
theorem resolve_eq_none {n off size : Nat} (h : ¬ AccessInOrder n off size) : resolve n off size = none := by
  rwa [← Option.not_isSome_iff_eq_none, resolve_isSome_iff]

/-! #### Byte lanes (R63, R64) -/

/-- Lane `j` of a word of four bytes is its byte `j`. -/
theorem leWord_extractLsb' (b0 b1 b2 b3 : Byte) {j : Nat} (h : j < 4) :
    (leWord b0 b1 b2 b3).extractLsb' (8 * j) 8 = [b0, b1, b2, b3].getD j 0#8 := by
  have low : ∀ {w : Nat} (x : BitVec w) (b : Byte), (x ++ b).extractLsb' 0 8 = b := fun x b =>
    BitVec.extractLsb'_append_eq_right
  have high : ∀ {w : Nat} (x : BitVec w) (b : Byte) (i : Nat),
      (x ++ b).extractLsb' (i + 8) 8 = x.extractLsb' i 8 := fun x b i =>
    BitVec.extractLsb'_append_eq_of_le (by omega)
  match j, h with
  | 0, _ => exact low _ b0
  | 1, _ => exact (high _ b0 0).trans (low _ b1)
  | 2, _ => exact (high _ b0 8).trans ((high _ b1 0).trans (low _ b2))
  | 3, _ => exact (high _ b0 16).trans ((high _ b1 8).trans ((high b3 b2 0).trans BitVec.extractLsb'_eq_self))

/-- A word is the word of its four lanes. -/
theorem leWord_leByte (v : Word) : leWord (leByte v 0) (leByte v 1) (leByte v 2) (leByte v 3) = v := by
  show v.extractLsb' 24 8 ++ v.extractLsb' 16 8 ++ v.extractLsb' 8 8 ++ v.extractLsb' 0 8 = v
  rw [BitVec.extractLsb'_append_extractLsb'_eq_extractLsb' (by decide),
    BitVec.extractLsb'_append_extractLsb'_eq_extractLsb' (by decide),
    BitVec.extractLsb'_append_extractLsb'_eq_extractLsb' (by decide)]
  exact BitVec.extractLsb'_eq_self

/-- The lanes of word `k` of a file are its bytes `4k` to `4k+3`. -/
theorem fileWord_extractLsb' {n : Nat} (f : Vector Byte n) (k : Nat) {j : Nat} (h : j < 4) :
    (fileWord f k).extractLsb' (8 * j) 8 = f.toList.getD (4 * k + j) 0#8 := by
  rw [fileWord, leWord_extractLsb' _ _ _ _ h]
  match j, h with
  | 0, _ | 1, _ | 2, _ | 3, _ => rfl

/-- A word of a file reads as what was written to it. -/
theorem fileWord_setFileWord {n : Nat} (f : Vector Byte n) {k : Nat} (v : Word) (h : 4 * k + 4 ≤ n) :
    fileWord (setFileWord f k v) k = v := by
  have lane : ∀ j < 4, (setFileWord f k v).toList.getD (4 * k + j) 0#8 = leByte v j := fun j hj => by
    have hget := setFileWord_get f k v (4 * k + j) (by omega)
    rw [if_pos (by omega), show (4 * k + j) % 4 = j by omega] at hget
    rw [leByte, ← hget]
    simp [List.getD_eq_getElem?_getD, show 4 * k + j < n by omega]
  have lane0 := lane 0 (by omega)
  rw [Nat.add_zero] at lane0
  rw [fileWord, lane0, lane 1 (by omega), lane 2 (by omega), lane 3 (by omega), leWord_leByte]

/-! #### Transactions (R66, R69, R70) -/

section
variable {s : State} {rest : List Event}

/-- A read that reaches nothing. -/
theorem step_read_busError {off size : Nat} (h : s.agenda = .read off size :: rest)
    (hr : resolve s.memBytes off size = none) : step s = .next { s with agenda := rest, resp := .busError } := by
  have hres : resolve (State.memBytes { s with agenda := rest }) off size = none := hr
  rw [step_read h, State.hostRead]
  simp only [hres]
  rfl

/-- A write that reaches nothing, busy or not. -/
theorem step_write_busError {off size : Nat} {v : Word} (h : s.agenda = .write off size v :: rest)
    (hr : resolve s.memBytes off size = none) : step s = .next { s with agenda := rest, resp := .busError } := by
  have hres : resolve (State.memBytes { s with agenda := rest }) off size = none := hr
  rw [step_write h, State.hostWrite]
  simp only [hres]
  rfl

/-- A read of word `k` of the file `f` answers its four bytes, lane by lane (R63). -/
theorem step_read_fileWord {n off k : Nat} {f : Vector Byte n} {r : Reg} (h : s.agenda = .read off 4 :: rest)
    (hr : regMap.lookup off = some r) (hf : s.readReg r = fileWord f k) :
    ∃ x : Word, step s = .next { s with agenda := rest, resp := .data x } ∧
      ∀ j, j < 4 → x.extractLsb' (8 * j) 8 = f.toList.getD (4 * k + j) 0#8 :=
  ⟨fileWord f k, hf ▸ step_read_register h hr, fun _ hj => fileWord_extractLsb' f k hj⟩

end

/-- What MEM answers to a read of `size` bytes is the number of its bytes, the first the least (R64). -/
theorem leOfBytes_readN_toNat (m : Memory) (a : Nat) :
    (leOfBytes (Memory.readN m a 1)).toNat = (Memory.read m a).toNat ∧
    (leOfBytes (Memory.readN m a 2)).toNat = (Memory.read m a).toNat + 2 ^ 8 * (Memory.read m (a + 1)).toNat ∧
    (leOfBytes (Memory.readN m a 4)).toNat = (Memory.read m a).toNat + 2 ^ 8 * (Memory.read m (a + 1)).toNat +
      2 ^ 16 * (Memory.read m (a + 2)).toNat + 2 ^ 24 * (Memory.read m (a + 3)).toNat := by
  simp [leOfBytes, Memory.readN, leWord_toNat]

/-! #### The statements -/

/-- Settles O20: an access out of order reaches nothing, and the bus-error check stands before all else. -/
theorem busErrorsChangeNothing : Obligations.BusErrorsChangeNothing := by
  intro s off size v rest hacc
  have hnone : resolve s.memBytes off size = none := resolve_eq_none hacc
  exact ⟨fun h => step_read_busError h hnone, fun h => step_write_busError h hnone⟩

/-- Settles O22: an access in order reaches a target, and a busy machine drops the write to it. -/
theorem writesWhileBusyAreDropped : Obligations.WritesWhileBusyAreDropped := by
  intro s off size v rest h hacc hbusy
  obtain ⟨t, ht⟩ := Option.isSome_iff_exists.1 ((resolve_isSome_iff s.memBytes off size).2 hacc)
  exact step_write_busy h hbusy ht

/-- Settles O26: each word of a file has its register, and writing and reading a register are `setFileWord` and
`fileWord`. -/
theorem registerWordsAreLittleEndian : Obligations.RegisterWordsAreLittleEndian := by
  intro s v k rest hidle
  refine ⟨fun hk h => ?_, fun hk h => ?_, fun hk h => ?_, fun hk h => ?_, fun hk h => ?_, fun hk h => ?_,
    fun hk h => ?_⟩
  · exact ⟨_, step_write_register h hidle (regMap_lookup_ckeyW k hk), setFileWord_get s.ckey k v⟩
  · exact ⟨_, step_write_register h hidle (regMap_lookup_mkeyW k hk), setFileWord_get s.mkey k v⟩
  · exact ⟨_, step_write_register h hidle (regMap_lookup_ivW k hk), fileWord_setFileWord s.iv v (by omega),
      setFileWord_get s.iv k v⟩
  · exact ⟨_, step_write_register h hidle (regMap_lookup_tagiW k hk), fileWord_setFileWord s.tagi v (by omega),
      setFileWord_get s.tagi k v⟩
  · exact step_read_fileWord h (regMap_lookup_ivW k hk) rfl
  · exact step_read_fileWord h (regMap_lookup_tagiW k hk) rfl
  · exact step_read_fileWord h (regMap_lookup_tagoW k hk) rfl

/-- Settles O30: the window reads and writes the lanes of a byte string, the first byte the least. -/
theorem windowIsLittleEndian : Obligations.WindowIsLittleEndian := by
  intro s a size v rest hsize halign hroom
  refine ⟨fun hidle h => ⟨_, step_write_window h hidle hsize halign hroom, fun k hk => ?_, fun b hb => ?_⟩,
    fun h => ⟨_, step_read_window h hsize halign hroom, ?_⟩⟩
  · rw [Memory.read_writeN_inside (by simpa using hk), leBytes_getD v hk]
  · exact Memory.read_writeN_outside (by simpa using hb)
  · obtain ⟨hone, htwo, hfour⟩ := leOfBytes_readN_toNat s.mem a
    exact ⟨by rintro rfl; exact hone, by rintro rfl; exact htwo, by rintro rfl; exact hfour⟩

/-- Settles O23: the register at each of the offsets keeps the state under a write. -/
theorem readOnlyRegistersIgnoreWrites : Obligations.ReadOnlyRegistersIgnoreWrites := by
  intro s off v rest hoff hidle h
  obtain ⟨r, hr, hkeep⟩ := regMap_lookup_readOnly hoff
  rw [step_write_register h hidle hr, hkeep]

end Sys2Proof.Machine

namespace Sys2Proof

/-! ### Command words (30_encoding.md R90 to R94)

A word is its three fields put together, and a word that decodes has the fields the encoder writes. -/

/-- R90: the three fields cover the word. -/
@[simp] theorem toWord_fieldsOf (w : Word) : (fieldsOf w).toWord = w := by
  show w.extractLsb' 6 26 ++ w.extractLsb' 4 2 ++ w.extractLsb' 0 4 = w
  rw [BitVec.extractLsb'_append_extractLsb'_eq_extractLsb' (by decide),
    BitVec.extractLsb'_append_extractLsb'_eq_extractLsb' (by decide)]
  exact BitVec.extractLsb'_eq_self

/-- The fields the encoder writes for a command (R92). -/
def Instr.fields (i : Instr) : CommandFields :=
  { op := i.opNumber, scope := i.scopeNumber, zero := 0#26 }

theorem encode_eq_toWord (i : Instr) : encode i = i.fields.toWord := rfl

/-- A word with the fields of a command is the word of that command. -/
theorem eq_encode_of_fieldsOf {w : Word} {i : Instr} (h : fieldsOf w = i.fields) : w = encode i := by
  rw [encode_eq_toWord, ← h, toWord_fieldsOf]

/-! #### What each part of the decoder accepts -/

theorem decodeSeal_ok {sc : Nat} {i : Instr} (h : decodeSeal sc = .ok i) :
    i.opNumber.toNat = 8 ∧ i.scopeNumber.toNat = sc := by
  unfold decodeSeal at h
  split at h <;> cases h <;> exact ⟨rfl, rfl⟩

theorem decodeOpen_ok {sc : Nat} {i : Instr} (h : decodeOpen sc = .ok i) :
    i.opNumber.toNat = 9 ∧ i.scopeNumber.toNat = sc := by
  unfold decodeOpen at h
  split at h <;> cases h <;> exact ⟨rfl, rfl⟩

theorem decodePlain_ok {op : Nat} {i : Instr} (h : decodePlain op = .ok i) :
    i.opNumber.toNat = op ∧ i.scopeNumber.toNat = 0 := by
  unfold decodePlain at h
  split at h <;> cases h <;> exact ⟨rfl, rfl⟩

/-- R94: a word that decodes to a command passes the test of ZERO and has that command's OP and SCOPE. -/
theorem decode_ok {w : Word} {i : Instr} (h : decode w = .ok i) :
    zeroField w = 0#26 ∧ i.opNumber.toNat = (opField w).toNat ∧
      i.scopeNumber.toNat = (scopeField w).toNat := by
  simp only [decode] at h
  split at h
  · cases h
  next hzero =>
  refine ⟨not_not.1 hzero, ?_⟩
  split at h
  next hop => exact hop ▸ decodeSeal_ok h
  split at h
  next hop => exact hop ▸ decodeOpen_ok h
  split at h
  · cases h
  next hscope => exact not_not.1 hscope ▸ decodePlain_ok h

theorem fieldsOf_of_decode {w : Word} {i : Instr} (h : decode w = .ok i) : fieldsOf w = i.fields := by
  obtain ⟨hzero, hop, hscope⟩ := decode_ok h
  rw [fieldsOf, Instr.fields, hzero, BitVec.eq_of_toNat_eq hop, BitVec.eq_of_toNat_eq hscope]

/-! #### The round trip, both ways -/

/-- The decoder reads back every word of the table of R92. -/
@[simp] theorem decode_encode (i : Instr) : decode (encode i) = .ok i := by
  cases i with
  | validate => exact Laws.DecodeEncode.validate
  | pad => exact Laws.DecodeEncode.pad
  | unpad => exact Laws.DecodeEncode.unpad
  | encrypt => exact Laws.DecodeEncode.encrypt
  | decrypt => exact Laws.DecodeEncode.decrypt
  | mac => exact Laws.DecodeEncode.mac
  | verify => exact Laws.DecodeEncode.verify
  | sealCt => exact Laws.DecodeEncode.sealCt
  | sealIvct => exact Laws.DecodeEncode.sealIvct
  | sealPt => exact Laws.DecodeEncode.sealPt
  | openCt => exact Laws.DecodeEncode.openCt
  | openIvct => exact Laws.DecodeEncode.openIvct
  | openPt => exact Laws.DecodeEncode.openPt
  | wipe => exact Laws.DecodeEncode.wipe

/-- R94: a word means a command exactly where it is the command's word. -/
theorem decode_eq_ok_iff (w : Word) (i : Instr) : decode w = .ok i ↔ w = encode i :=
  ⟨fun h => eq_encode_of_fieldsOf (fieldsOf_of_decode h), fun h => h ▸ decode_encode i⟩

/-- Settles O1: the table of R92 by evaluation of the encoder on its fourteen rows, and the rest of the 2^32 words by
the fields a decoded word must have. -/
theorem everyWordIsOneCommandOrIllegal : Obligations.EveryWordIsOneCommandOrIllegal :=
  ⟨by decide, decode_eq_ok_iff⟩

end Sys2Proof

namespace Sys2Proof.Machine

/-! ### Issue and the address check (40_lifecycle.md R110, R111, R115, R116)

An AddressError comes from the address check alone: what a body can raise is on the list of its command in
60_exceptions.md R241, less AddressError. -/

/-! #### What the bodies raise -/

theorem validate_error {ckl mkl ivl : Word} {e : ErrorKind} (h : validate ckl mkl ivl = some e) :
    e = .invalidKeyLength ∨ e = .invalidIVLength := by
  simpa [h] using validate_cases ckl mkl ivl

theorem validateCipher_error {ckl ivl : Word} {e : ErrorKind} (h : validateCipher ckl ivl = some e) :
    e = .invalidKeyLength ∨ e = .invalidIVLength := by
  simpa [h] using validateCipher_cases ckl ivl

theorem validateMac_error {mkl : Word} {e : ErrorKind} (h : validateMac mkl = some e) : e = .invalidKeyLength := by
  simpa [h] using validateMac_cases mkl

section
variable {e : ErrorKind} {ckl mkl ivl tl : Word} {k iv t d : List Byte} {scope : MacScope} {o : EnvelopeParams}

theorem bodyValidate_error (h : (bodyValidate ckl mkl ivl).result = .error e) :
    e ∈ [ErrorKind.invalidKeyLength, .invalidIVLength] := by
  unfold bodyValidate at h
  split at h
  next hv => cases h; simpa using validate_error hv
  · cases h

theorem bodyUnpad_error (h : (bodyUnpad d).result = .error e) : e ∈ [ErrorKind.paddingError] := by
  unfold bodyUnpad at h
  split at h <;> cases h
  exact List.mem_singleton_self _

theorem bodyEncrypt_error (h : (bodyEncrypt ckl ivl k iv d).result = .error e) :
    e ∈ [ErrorKind.invalidKeyLength, .invalidIVLength, .invalidInputLength] := by
  unfold bodyEncrypt at h
  split at h
  next hv => cases h; rcases validateCipher_error hv with rfl | rfl <;> decide
  · split at h <;> cases h
    decide

theorem bodyDecrypt_error (h : (bodyDecrypt ckl ivl k iv d).result = .error e) :
    e ∈ [ErrorKind.invalidKeyLength, .invalidIVLength, .invalidInputLength] := by
  unfold bodyDecrypt at h
  split at h
  next hv => cases h; rcases validateCipher_error hv with rfl | rfl <;> decide
  · split at h <;> cases h
    decide

theorem bodyMac_error (h : (bodyMac mkl k d).result = .error e) : e ∈ [ErrorKind.invalidKeyLength] := by
  unfold bodyMac at h
  split at h
  next hv => cases h; simpa using validateMac_error hv
  · cases h

theorem bodyVerify_error (h : (bodyVerify mkl k t tl d).result = .error e) : e ∈ [ErrorKind.invalidKeyLength] := by
  unfold bodyVerify at h
  split at h
  next hv => cases h; simpa using validateMac_error hv
  · cases h

theorem bodySeal_error (h : (bodySeal scope o d).result = .error e) :
    e ∈ [ErrorKind.invalidKeyLength, .invalidIVLength] := by
  unfold bodySeal at h
  split at h
  next hv => cases h; simpa using validate_error hv
  · cases h

/-- R170: the length and the tag are looked at under legal lengths only, and a bad padding is reported as a bad tag. -/
theorem bodyOpenVerifyFirst_error (h : (bodyOpenVerifyFirst scope o t tl d).result = .error e) :
    e ∈ [ErrorKind.invalidKeyLength, .invalidIVLength, .invalidInputLength, .authenticationFailure] := by
  simp only [bodyOpenVerifyFirst] at h
  split at h
  next hv => cases h; rcases validate_error hv with rfl | rfl <;> decide
  split at h
  · split at h
    · cases h; decide
    · split at h <;> cases h
      decide
  · cases h; decide

/-- R171: likewise, with the tag looked at last. -/
theorem bodyOpenPlaintext_error (h : (bodyOpenPlaintext o t tl d).result = .error e) :
    e ∈ [ErrorKind.invalidKeyLength, .invalidIVLength, .invalidInputLength, .authenticationFailure] := by
  simp only [bodyOpenPlaintext] at h
  split at h
  next hv => cases h; rcases validate_error hv with rfl | rfl <;> decide
  split at h
  · cases h; decide
  split at h
  · cases h; decide
  · split at h <;> cases h
    decide

end

/-- The errors of a command's body: those of 60_exceptions.md R241 that are not the address check's. -/
def bodyErrors (i : Instr) : List ErrorKind :=
  (errorsOf i).filter (· != .addressError)

theorem mem_bodyErrors_iff {i : Instr} {e : ErrorKind} :
    e ∈ bodyErrors i ↔ e ∈ errorsOf i ∧ e ≠ .addressError := by
  rw [bodyErrors, List.mem_filter, bne_iff_ne]

/-- Every error a body raises is one of its command's. -/
theorem bodyOf_error {i : Instr} {s : State} {e : ErrorKind} (h : (bodyOf i s).result = .error e) :
    e ∈ bodyErrors i := by
  cases i with
  | validate => exact bodyValidate_error h
  | pad => cases h
  | unpad => exact bodyUnpad_error h
  | encrypt => exact bodyEncrypt_error h
  | decrypt => exact bodyDecrypt_error h
  | mac => exact bodyMac_error h
  | verify => exact bodyVerify_error h
  | sealCt | sealIvct | sealPt => exact bodySeal_error h
  | openCt | openIvct => exact bodyOpenVerifyFirst_error h
  | openPt => exact bodyOpenPlaintext_error h
  | wipe => cases h

/-! #### The address check -/

/-- The check fails exactly where a region the command may touch leaves MEM (R116). -/
theorem State.addressOk_eq_false_iff (s : State) (i : Instr) :
    s.addressOk i = false ↔
      (usesSource i = true ∧ ¬ s.SourceInMem) ∨ ∃ n, outMax i s.srcLen.toNat = some n ∧ ¬ s.RoomFor n := by
  rw [← Bool.not_eq_true, s.addressOk_iff, not_and_or]
  simp only [Classical.not_imp, not_forall]

/-- Where the check fails, the command is its error completion and nothing else (R113, R116). -/
theorem exec_of_addressOk_false {i : Instr} {s : State} (ha : s.addressOk i = false) :
    exec i s = .next (s.errorCompletion .addressError) := by
  rw [exec_eq, if_neg (by simp [ha])]

/-- Where the check passes, no command ends with AddressError. -/
theorem err_ne_addressError_of_addressOk {i : Instr} {s t : State} (ha : s.addressOk i = true)
    (h : exec i s = .next t) : t.status.err ≠ some .addressError := by
  cases exec_ends h with
  | address hfail => simp [ha] at hfail
  | error e _ hr => simpa using (mem_bodyErrors_iff.1 (bodyOf_error hr)).2
  | wiped => simp
  | report => simp
  | output => simp

/-! #### The statements -/

/-- Settles O15: `OutMax` and `uses_src` are read off their tables; of the outcomes of a command, a failed address
check is the only one with AddressError. -/
theorem addressErrorExactlyOutsideMem : Obligations.AddressErrorExactlyOutsideMem := by
  have sources : ∀ i, usesSource i = true ↔ i ≠ .validate ∧ i ≠ .wipe := fun i => by cases i <;> decide
  refine ⟨fun n => by simp [outMax], sources, fun i s => ⟨fun hout => ?_, fun hsrc hroom t ht => ?_⟩⟩
  · exact exec_of_addressOk_false ((s.addressOk_eq_false_iff i).2 hout)
  · exact err_ne_addressError_of_addressOk ((s.addressOk_iff i).2 ⟨hsrc, hroom⟩) ht

/-- Settles O11: offset 0x04 is CMD; an idle machine issues the word written there, a busy one drops the write. -/
theorem commandWriteIssues : Obligations.CommandWriteIssues := by
  intro s w rest h
  have hcmd : regMap.lookup 0x04 = some .cmd := rfl
  exact ⟨fun hidle => step_write_register h hidle hcmd,
    fun hbusy => step_write_busy h hbusy (resolve_register _ hcmd)⟩

end Sys2Proof.Machine

namespace Sys2Proof.Machine

/-! ### The Parameter Validator and VALIDATE (41_validate.md R125, R127)

What `Validate` answers on the length registers, in the words of the statements, and how the command ends on it. -/

section
variable {s : State}

/-! #### What the validator answers -/

theorem validate_of_lengthsOk (h : s.LengthsOk) : validate s.ckeyLen s.mkeyLen s.ivLen = none := by
  obtain ⟨hkeys, hiv⟩ := h
  rw [validate_eq, if_pos hkeys, if_pos hiv]

theorem validate_of_not_keysOk (h : ¬ s.KeysOk) :
    validate s.ckeyLen s.mkeyLen s.ivLen = some .invalidKeyLength := by
  rw [validate_eq, if_neg h]

theorem validate_of_ivLen_ne (hkeys : s.KeysOk) (hiv : s.ivLen ≠ 16#32) :
    validate s.ckeyLen s.mkeyLen s.ivLen = some .invalidIVLength := by
  rw [validate_eq, if_pos hkeys, if_neg hiv]

/-! #### How VALIDATE ends -/

/-- VALIDATE names no region of MEM, so the address check lets it pass (40_lifecycle.md R116). -/
theorem addressOk_validate : s.addressOk .validate = true := rfl

theorem bodyOf_validate_of_none (h : validate s.ckeyLen s.mkeyLen s.ivLen = none) :
    bodyOf .validate s = .succeed (.report false) [.v] Work.empty := by
  simp only [bodyOf, bodyValidate, h]

theorem bodyOf_validate_of_some {e : ErrorKind} (h : validate s.ckeyLen s.mkeyLen s.ivLen = some e) :
    bodyOf .validate s = .raise e [.v] Work.empty := by
  simp only [bodyOf, bodyValidate, h]

theorem validate_endsReporting (h : validate s.ckeyLen s.mkeyLen s.ivLen = none) :
    EndsReporting .validate s false s.tago [.v] :=
  endsReporting_body (tag := none) addressOk_validate (by rw [bodyOf_validate_of_none h]; rfl)
    (by rw [bodyOf_validate_of_none h]; rfl)

theorem validate_endsWithError {e : ErrorKind} (h : validate s.ckeyLen s.mkeyLen s.ivLen = some e) :
    EndsWithError .validate s e [.v] :=
  endsWithError_body addressOk_validate (by rw [bodyOf_validate_of_some h]; rfl)
    (by rw [bodyOf_validate_of_some h]; rfl)

end

/-- Settles O46: VALIDATE ends with what `Validate` answers, and the three cases are the three answers. -/
theorem validateReportsTheLengths : Obligations.ValidateReportsTheLengths :=
  ⟨rfl, fun _ =>
    ⟨fun hok => validate_endsReporting (validate_of_lengthsOk hok),
      fun hkeys => validate_endsWithError (validate_of_not_keysOk hkeys),
      fun hkeys hiv => validate_endsWithError (validate_of_ivLen_ne hkeys hiv)⟩⟩

end Sys2Proof.Machine

namespace Sys2Proof.Machine

/-! ### The Padding Codec, PAD and UNPAD (42_padding.md R135 to R138, R141)

`unpad_eq_some_iff` says once, in the words of R136, what `Unpad` accepts. A string it accepts is a string of whole
blocks that ends in `p` bytes of the value `p`, and only one `p` completes the rest to whole blocks: the pad count. -/

/-! #### What the codec computes -/

theorem padCount_bounds (n : Nat) : 1 ≤ padCount n ∧ padCount n ≤ 16 := by
  unfold padCount
  omega

/-- The pad count is the only count of 1 to 16 bytes that completes `n` bytes to whole blocks. -/
theorem padCount_eq_iff {n p : Nat} (hlow : 1 ≤ p) (hhigh : p ≤ 16) : padCount n = p ↔ (n + p) % 16 = 0 := by
  unfold padCount
  omega

/-- The check of the last `p` bytes, by their positions in the string. -/
theorem drop_all_toNat_eq_iff (d : List Byte) (p : Nat) :
    (d.drop (d.length - p)).all (fun b => b.toNat == p) = true ↔
      ∀ i, d.length - p ≤ i → i < d.length → (d.getD i 0#8).toNat = p := by
  simp only [List.all_eq_true, beq_iff_eq]
  constructor
  · intro hall i hfrom hlt
    rw [List.getD_eq_getElem _ _ hlt]
    exact hall _ (List.mem_drop_iff_getElem.2 ⟨i - (d.length - p), by omega, by congr 1; omega⟩)
  · intro hpos b hb
    obtain ⟨j, hj, rfl⟩ := List.mem_drop_iff_getElem.1 hb
    have hval := hpos (d.length - p + j) (by omega) (by omega)
    rwa [List.getD_eq_getElem _ _ (by omega)] at hval

/-- What `Unpad` accepts and what it gives (R136). -/
theorem unpad_eq_some_iff (d x : List Byte) :
    unpad d = some x ↔
      d.length ≠ 0 ∧ d.length % 16 = 0 ∧ ∃ p, p = (d.getD (d.length - 1) 0#8).toNat ∧ 1 ≤ p ∧ p ≤ 16 ∧
        (∀ i, d.length - p ≤ i → i < d.length → (d.getD i 0#8).toNat = p) ∧ x = d.take (d.length - p) := by
  simp only [exists_eq_left, ← drop_all_toNat_eq_iff, unpad]
  generalize (d.getD (d.length - 1) 0#8).toNat = p
  split_ifs with hempty hblocks hrange htail
  · simp [hempty]
  · simp [hblocks]
  · simp only [false_iff]; omega
  · obtain ⟨hlow, hhigh⟩ := not_or.1 hrange
    simp [hempty, not_not.1 hblocks, Nat.not_lt.1 hlow, Nat.not_lt.1 hhigh, htail, eq_comm]
  · simp [htail]

/-- A string of whole blocks that ends in `p` bytes `p` is unpadded by those bytes. -/
theorem unpad_append_replicate {x : List Byte} {p : Nat} (hlow : 1 ≤ p) (hhigh : p ≤ 16)
    (hblocks : (x.length + p) % 16 = 0) : unpad (x ++ List.replicate p (BitVec.ofNat 8 p)) = some x := by
  have hval : (BitVec.ofNat 8 p).toNat = p := by rw [BitVec.toNat_ofNat]; omega
  have htail : ∀ i, x.length ≤ i → i < x.length + p →
      ((x ++ List.replicate p (BitVec.ofNat 8 p)).getD i 0#8).toNat = p := fun i hfrom hlt => by
    rw [List.getD_append_right _ _ _ _ hfrom, List.getD_replicate _ (by omega), hval]
  rw [unpad_eq_some_iff]
  simp only [List.length_append, List.length_replicate]
  exact ⟨by omega, hblocks, p, (htail _ (by omega) (by omega)).symm, hlow, hhigh,
    fun i hfrom => htail i (by omega), by simp⟩

/-- A string that `Unpad` accepts is its result followed by `p` bytes `p`, in whole blocks. -/
theorem eq_append_replicate_of_unpad {d x : List Byte} (h : unpad d = some x) :
    ∃ p, 1 ≤ p ∧ p ≤ 16 ∧ (x.length + p) % 16 = 0 ∧ d = x ++ List.replicate p (BitVec.ofNat 8 p) := by
  obtain ⟨hne, hblocks, p, -, hlow, hhigh, htail, rfl⟩ := (unpad_eq_some_iff d x).1 h
  have hdrop : d.drop (d.length - p) = List.replicate p (BitVec.ofNat 8 p) := by
    refine List.eq_replicate_iff.2 ⟨by rw [List.length_drop]; omega, fun b hb => ?_⟩
    have hb : b.toNat = p := by simpa using List.all_eq_true.1 ((drop_all_toNat_eq_iff d p).2 htail) b hb
    rw [← hb, BitVec.ofNat_toNat, BitVec.setWidth_eq]
  exact ⟨p, hlow, hhigh, by rw [List.length_take]; omega, by rw [← hdrop, List.take_append_drop]⟩

/-- `Unpad(Pad(x)) = ok(x)` (R141). -/
theorem unpad_pad (x : List Byte) : unpad (pad x) = some x := by
  obtain ⟨hlow, hhigh⟩ := padCount_bounds x.length
  exact unpad_append_replicate hlow hhigh ((padCount_eq_iff hlow hhigh).1 rfl)

/-- `Unpad` accepts nothing but what `Pad` makes. -/
theorem pad_of_unpad {d x : List Byte} (h : unpad d = some x) : pad x = d := by
  obtain ⟨p, hlow, hhigh, hblocks, rfl⟩ := eq_append_replicate_of_unpad h
  rw [pad, (padCount_eq_iff hlow hhigh).2 hblocks]

/-! #### How PAD and UNPAD end -/

section
variable {s : State}

theorem addressOk_pad_iff :
    s.addressOk .pad = true ↔ s.SourceInMem ∧ s.RoomFor (16 * (s.srcLen.toNat / 16 + 1)) :=
  addressOk_iff_both rfl rfl

theorem addressOk_unpad_iff : s.addressOk .unpad = true ↔ s.SourceInMem ∧ s.RoomFor s.srcLen.toNat :=
  addressOk_iff_both rfl rfl

/-- A command whose address check asks for a source and room for `n` bytes ends with AddressError where either is
missing (40_lifecycle.md R116). -/
theorem endsWithError_of_outside {i : Instr} {n : Nat} (hcheck : s.addressOk i = true ↔ s.SourceInMem ∧ s.RoomFor n)
    (hout : ¬ s.SourceInMem ∨ ¬ s.RoomFor n) : EndsWithError i s .addressError [] :=
  endsWithError_address (Bool.eq_false_iff.2 fun hok => not_and_or.2 hout (hcheck.1 hok))

theorem pad_endsWithOutput (ha : s.addressOk .pad = true) :
    EndsWithOutput .pad s (pad s.source) s.tago [.pad] :=
  endsWithOutput_body (tag := none) ha rfl rfl

theorem bodyOf_unpad_of_some {x : List Byte} (h : unpad s.source = some x) :
    bodyOf .unpad s = .succeed (.output x) [.unpad] { Work.empty with recovered := x } := by
  simp only [bodyOf, bodyUnpad, h]

theorem bodyOf_unpad_of_none (h : unpad s.source = none) :
    bodyOf .unpad s = .raise .paddingError [.unpad] Work.empty := by
  simp only [bodyOf, bodyUnpad, h]

theorem unpad_endsWithOutput {x : List Byte} (ha : s.addressOk .unpad = true) (h : unpad s.source = some x) :
    EndsWithOutput .unpad s x s.tago [.unpad] :=
  endsWithOutput_body (tag := none) ha (by rw [bodyOf_unpad_of_some h]; rfl) (by rw [bodyOf_unpad_of_some h]; rfl)

theorem unpad_endsWithError (ha : s.addressOk .unpad = true) (h : unpad s.source = none) :
    EndsWithError .unpad s .paddingError [.unpad] :=
  endsWithError_body ha (by rw [bodyOf_unpad_of_none h]; rfl) (by rw [bodyOf_unpad_of_none h]; rfl)

end

/-! #### The statements -/

/-- Settles O34: the lengths are those of the padded length; `Unpad` and `Pad` undo each other. -/
theorem unpadInvertsPad : Obligations.UnpadInvertsPad := by
  intro x
  have hlen := pad_length x
  exact ⟨by omega, by omega, by omega, unpad_pad x, fun _ => pad_of_unpad⟩

/-- Settles O47: inside MEM PAD ends with what `Pad` makes of the source, outside with the address check. -/
theorem padStoresThePaddedSource : Obligations.PadStoresThePaddedSource := by
  refine ⟨rfl, fun d => ?_, fun s => ⟨fun hsrc hroom => ⟨?_, ?_⟩, endsWithError_of_outside addressOk_pad_iff⟩⟩
  · obtain ⟨hlow, hhigh⟩ := padCount_bounds d.length
    exact ⟨hlow, hhigh, rfl, rfl⟩
  · exact pad_endsWithOutput (addressOk_pad_iff.2 ⟨hsrc, hroom⟩)
  · rw [pad_length, s.source_length]

/-- Settles O48: inside MEM UNPAD ends with what `Unpad` answers on the source, outside with the address check. -/
theorem unpadStoresTheUnpaddedSource : Obligations.UnpadStoresTheUnpaddedSource :=
  ⟨rfl, unpad_eq_some_iff, fun _ =>
    ⟨fun _ hsrc hroom => unpad_endsWithOutput (addressOk_unpad_iff.2 ⟨hsrc, hroom⟩),
      fun hsrc hroom => unpad_endsWithError (addressOk_unpad_iff.2 ⟨hsrc, hroom⟩),
      endsWithError_of_outside addressOk_unpad_iff⟩⟩

end Sys2Proof.Machine

namespace Sys2Proof.Machine

/-! ### The chained-block mode, ENCRYPT and DECRYPT (43_cbc.md R145 to R150)

The laws of the mode follow its chaining, one block in front of the rest (`cbcEnc_append`, `cbcDec_append`). ENCRYPT and
DECRYPT differ in their output only, so one lemma per error speaks of both. -/

/-! #### The mode -/

/-- Exclusive-or with the same string undoes itself (00_scope.md, section 5). -/
theorem xorBytes_xorBytes_cancel {a b : List Byte} (h : a.length ≤ b.length) : xorBytes (xorBytes a b) b = a := by
  apply List.ext_getElem
  · simp [h]
  · intro i _ _
    simp [xorBytes]

/-- Decryption undoes encryption block by block: each ciphertext block decrypts to the block that was exclusive-ORed
with its predecessor, and is itself the predecessor of the next (R150). -/
theorem cbcDec_cbcEnc (k : List Byte) {iv p : List Byte} (hiv : iv.length = 16) (hp : p.length % 16 = 0) :
    cbcDec k iv (cbcEnc k iv p) = p := by
  refine blocks_induction (motive := fun p => ∀ iv : List Byte, iv.length = 16 → cbcDec k iv (cbcEnc k iv p) = p)
    ?_ ?_ hp iv hiv
  · simp
  · intro b rest hb _ ih iv hiv
    have hchained : (xorBytes b iv).length = 16 := by simp [hb, hiv]
    rw [cbcEnc_append hb, cbcDec_append (blockEnc_length k _), blockDec_blockEnc k hchained,
      xorBytes_xorBytes_cancel (by omega), ih _ (blockEnc_length k _)]

theorem pad_length_mod (x : List Byte) : (pad x).length % 16 = 0 := by
  rw [pad_length, Nat.mul_mod_right]

section
variable {s : State} {i : Instr}

/-! #### What the validator answers (41_validate.md R126) -/

theorem validateCipher_of_legal (hkey : s.CipherKeyOk) (hiv : s.ivLen = 16#32) :
    validateCipher s.ckeyLen s.ivLen = none := by
  rw [validateCipher_eq, if_pos hkey, if_pos hiv]

theorem validateCipher_of_not_cipherKeyOk (h : ¬ s.CipherKeyOk) :
    validateCipher s.ckeyLen s.ivLen = some .invalidKeyLength := by
  rw [validateCipher_eq, if_neg h]

theorem validateCipher_of_ivLen_ne (hkey : s.CipherKeyOk) (hiv : s.ivLen ≠ 16#32) :
    validateCipher s.ckeyLen s.ivLen = some .invalidIVLength := by
  rw [validateCipher_eq, if_pos hkey, if_neg hiv]

@[simp] theorem State.ivBytes_length (s : State) : s.ivBytes.length = 16 := by
  simp [State.ivBytes]

/-! #### What ENCRYPT and DECRYPT share -/

/-- The commands of the mode alone (R147, R148). -/
abbrev IsCbcCommand (i : Instr) : Prop :=
  i = .encrypt ∨ i = .decrypt

theorem addressOk_cbc_iff (hi : IsCbcCommand i) :
    s.addressOk i = true ↔ s.SourceInMem ∧ s.RoomFor s.srcLen.toNat := by
  rcases hi with rfl | rfl <;> exact addressOk_iff_both rfl rfl

theorem bodyOf_cbc_of_illegal (hi : IsCbcCommand i) {e : ErrorKind} (h : validateCipher s.ckeyLen s.ivLen = some e) :
    bodyOf i s = .raise e [.v] Work.empty := by
  rcases hi with rfl | rfl
  · simp only [bodyOf, bodyEncrypt, h]
  · simp only [bodyOf, bodyDecrypt, h]

theorem bodyOf_cbc_of_partial_block (hi : IsCbcCommand i) (h : validateCipher s.ckeyLen s.ivLen = none)
    (hlen : s.srcLen.toNat % 16 ≠ 0) : bodyOf i s = .raise .invalidInputLength [.v] Work.empty := by
  rw [← s.source_length] at hlen
  rcases hi with rfl | rfl
  · simp only [bodyOf, bodyEncrypt, h, if_pos hlen]
  · simp only [bodyOf, bodyDecrypt, h, if_pos hlen]

/-- An error the validator answers. -/
theorem cbc_endsWithError_of_illegal (hi : IsCbcCommand i) (hsrc : s.SourceInMem) (hroom : s.RoomFor s.srcLen.toNat)
    {e : ErrorKind} (h : validateCipher s.ckeyLen s.ivLen = some e) : EndsWithError i s e [.v] :=
  endsWithError_body ((addressOk_cbc_iff hi).2 ⟨hsrc, hroom⟩) (by rw [bodyOf_cbc_of_illegal hi h]; rfl)
    (by rw [bodyOf_cbc_of_illegal hi h]; rfl)

/-- A source that is not whole blocks, behind legal lengths. -/
theorem cbc_endsWithError_of_partial_block (hi : IsCbcCommand i) (hsrc : s.SourceInMem)
    (hroom : s.RoomFor s.srcLen.toNat) (h : validateCipher s.ckeyLen s.ivLen = none)
    (hlen : s.srcLen.toNat % 16 ≠ 0) : EndsWithError i s .invalidInputLength [.v] :=
  endsWithError_body ((addressOk_cbc_iff hi).2 ⟨hsrc, hroom⟩) (by rw [bodyOf_cbc_of_partial_block hi h hlen]; rfl)
    (by rw [bodyOf_cbc_of_partial_block hi h hlen]; rfl)

/-- The error clauses of both statements: the address check, then the validator, then the input length (R147, R148). -/
theorem cbc_errors (hi : IsCbcCommand i) (s : State) :
    (¬ s.SourceInMem ∨ ¬ s.RoomFor s.srcLen.toNat → EndsWithError i s .addressError []) ∧
    (s.SourceInMem → s.RoomFor s.srcLen.toNat → ¬ s.CipherKeyOk → EndsWithError i s .invalidKeyLength [.v]) ∧
    (s.SourceInMem → s.RoomFor s.srcLen.toNat → s.CipherKeyOk → s.ivLen ≠ 16#32 →
      EndsWithError i s .invalidIVLength [.v]) ∧
    (s.SourceInMem → s.RoomFor s.srcLen.toNat → s.CipherKeyOk → s.ivLen = 16#32 → s.srcLen.toNat % 16 ≠ 0 →
      EndsWithError i s .invalidInputLength [.v]) :=
  ⟨endsWithError_of_outside (addressOk_cbc_iff hi),
    fun hsrc hroom hkey => cbc_endsWithError_of_illegal hi hsrc hroom (validateCipher_of_not_cipherKeyOk hkey),
    fun hsrc hroom hkey hiv => cbc_endsWithError_of_illegal hi hsrc hroom (validateCipher_of_ivLen_ne hkey hiv),
    fun hsrc hroom hkey hiv => cbc_endsWithError_of_partial_block hi hsrc hroom (validateCipher_of_legal hkey hiv)⟩

/-! #### What they store -/

theorem bodyOf_encrypt_of_legal (h : validateCipher s.ckeyLen s.ivLen = none) (hlen : s.source.length % 16 = 0) :
    bodyOf .encrypt s = .succeed (.output (cbcEnc s.cipherKey s.ivBytes s.source)) [.v, .enc]
      { Work.empty with
        keySchedule := keyScheduleBytes s.cipherKey, ciphertext := cbcEnc s.cipherKey s.ivBytes s.source } := by
  simp only [bodyOf, bodyEncrypt, h, if_neg (not_not.2 hlen)]

theorem bodyOf_decrypt_of_legal (h : validateCipher s.ckeyLen s.ivLen = none) (hlen : s.source.length % 16 = 0) :
    bodyOf .decrypt s = .succeed (.output (cbcDec s.cipherKey s.ivBytes s.source)) [.v, .dec]
      { Work.empty with
        keySchedule := keyScheduleBytes s.cipherKey, decrypted := cbcDec s.cipherKey s.ivBytes s.source } := by
  simp only [bodyOf, bodyDecrypt, h, if_neg (not_not.2 hlen)]

theorem encrypt_endsWithOutput (ha : s.addressOk .encrypt = true) (h : validateCipher s.ckeyLen s.ivLen = none)
    (hlen : s.source.length % 16 = 0) :
    EndsWithOutput .encrypt s (cbcEnc s.cipherKey s.ivBytes s.source) s.tago [.v, .enc] :=
  endsWithOutput_body (tag := none) ha (by rw [bodyOf_encrypt_of_legal h hlen]; rfl)
    (by rw [bodyOf_encrypt_of_legal h hlen]; rfl)

theorem decrypt_endsWithOutput (ha : s.addressOk .decrypt = true) (h : validateCipher s.ckeyLen s.ivLen = none)
    (hlen : s.source.length % 16 = 0) :
    EndsWithOutput .decrypt s (cbcDec s.cipherKey s.ivBytes s.source) s.tago [.v, .dec] :=
  endsWithOutput_body (tag := none) ha (by rw [bodyOf_decrypt_of_legal h hlen]; rfl)
    (by rw [bodyOf_decrypt_of_legal h hlen]; rfl)

end

/-! #### The statements -/

/-- Settles O41: the chaining is that of one block in front of whole blocks, and both directions keep the length. -/
theorem cbcChainsTheBlocks : Obligations.CbcChainsTheBlocks := by
  intro k iv b rest hiv hb hrest
  have hblocks : (b ++ rest).length % 16 = 0 := by rw [List.length_append]; omega
  refine ⟨cbcEnc_nil k iv, cbcDec_nil k iv, cbcEnc_append hb k iv rest, cbcDec_append hb k iv rest, ?_, ?_⟩
  · rw [cbcEnc_length k iv hblocks, List.length_append, hb]
  · rw [cbcDec_length k hiv hblocks, List.length_append, hb]

/-- Settles O42: decryption cancels encryption on whole blocks, which a padded string is, and `Unpad` cancels `Pad`. -/
theorem cbcRoundTrip : Obligations.CbcRoundTrip := by
  intro k iv _ hiv
  refine ⟨fun p hp => ⟨cbcDec_cbcEnc k hiv hp, cbcEnc_length k iv hp⟩, fun x => ⟨pad_length_mod x, ?_⟩⟩
  rw [cbcDec_cbcEnc k hiv (pad_length_mod x), unpad_pad]

/-- Settles O49: behind the address check, legal lengths and whole blocks ENCRYPT ends with what the mode makes of the
source; each check that fails is the error it ends with. -/
theorem encryptStoresTheCiphertext : Obligations.EncryptStoresTheCiphertext := by
  refine ⟨rfl, fun s => ⟨fun hsrc hroom hkey hiv hlen => ?_, cbc_errors (.inl rfl) s⟩⟩
  rw [← s.source_length] at hlen ⊢
  exact ⟨encrypt_endsWithOutput ((addressOk_cbc_iff (.inl rfl)).2 ⟨hsrc, hroom⟩) (validateCipher_of_legal hkey hiv) hlen,
    cbcEnc_length _ _ hlen⟩

/-- Settles O50: likewise for DECRYPT and the inverse mode, which keeps the length because IV is a whole block. -/
theorem decryptStoresThePlaintext : Obligations.DecryptStoresThePlaintext := by
  refine ⟨rfl, fun s => ⟨fun hsrc hroom hkey hiv hlen => ?_, cbc_errors (.inr rfl) s⟩⟩
  rw [← s.source_length] at hlen ⊢
  exact ⟨decrypt_endsWithOutput ((addressOk_cbc_iff (.inr rfl)).2 ⟨hsrc, hroom⟩) (validateCipher_of_legal hkey hiv) hlen,
    cbcDec_length _ s.ivBytes_length hlen⟩

end Sys2Proof.Machine

namespace Sys2Proof.Machine

/-! ### The MAC Engine, MAC and VERIFY (44_mac.md R155 to R160)

`Verify` is said once for each kind of claimed length. MAC and VERIFY raise the same errors in the same order, so one
lemma per error speaks of both; behind the checks they differ in what they report. -/

/-! #### The verification (R156) -/

theorem verify_length8 (k d t : List Byte) : verify k d t 8#32 = (mac k d == t) := rfl

/-- Another claimed length is a mismatch, whatever the tag. -/
theorem verify_of_length_ne (k d t : List Byte) {tl : Word} (h : tl ≠ 8#32) : verify k d t tl = false :=
  if_pos h

theorem verify_eq_true_iff (k d t : List Byte) (tl : Word) : verify k d t tl = true ↔ tl = 8#32 ∧ mac k d = t := by
  by_cases h : tl = 8#32
  · rw [h, verify_length8, beq_iff_eq, and_iff_right rfl]
  · simp [verify_of_length_ne k d t h, h]

theorem verifyPhases_of_length_ne {tl : Word} (h : tl ≠ 8#32) : verifyPhases tl = [] :=
  if_neg h

section
variable {s : State} {i : Instr}

/-! #### What the validator answers (41_validate.md R126) -/

theorem validateMac_of_legal {mkl : Word} (h : mkl = 32#32) : validateMac mkl = none :=
  if_neg (not_not.2 h)

theorem validateMac_of_ne {mkl : Word} (h : mkl ≠ 32#32) : validateMac mkl = some .invalidKeyLength :=
  if_pos h

/-! #### What MAC and VERIFY share -/

/-- The commands of the MAC alone (R157, R158). -/
abbrev IsMacCommand (i : Instr) : Prop :=
  i = .mac ∨ i = .verify

/-- Both read the source and write nothing to MEM (40_lifecycle.md R115, R116). -/
theorem addressOk_mac_iff (hi : IsMacCommand i) : s.addressOk i = true ↔ s.SourceInMem := by
  rcases hi with rfl | rfl <;> exact addressOk_iff_source rfl rfl

theorem bodyOf_mac_of_illegal (hi : IsMacCommand i) {e : ErrorKind} (h : validateMac s.mkeyLen = some e) :
    bodyOf i s = .raise e [.v] Work.empty := by
  rcases hi with rfl | rfl
  · simp only [bodyOf, bodyMac, h]
  · simp only [bodyOf, bodyVerify, h]

/-- The error clauses of both statements: the address check, then the validator (R157, R158). -/
theorem mac_errors (hi : IsMacCommand i) (s : State) :
    (¬ s.SourceInMem → EndsWithError i s .addressError []) ∧
    (s.SourceInMem → s.mkeyLen ≠ 32#32 → EndsWithError i s .invalidKeyLength [.v]) := by
  refine ⟨fun hout => endsWithError_address (Bool.eq_false_iff.2 (mt (addressOk_mac_iff hi).1 hout)),
    fun hsrc hkey => ?_⟩
  have hbody := bodyOf_mac_of_illegal hi (validateMac_of_ne hkey)
  exact endsWithError_body ((addressOk_mac_iff hi).2 hsrc) (by rw [hbody]; rfl) (by rw [hbody]; rfl)

/-! #### What they report -/

theorem bodyOf_mac_of_legal (h : validateMac s.mkeyLen = none) :
    bodyOf .mac s =
      .succeed { out := none, tag := some (fileOfBytes 8 (mac s.macKey s.source)), matched := false, wipe := false }
        [.v, .mac] { Work.empty with digest := hmacSha256 s.macKey s.source, tag := mac s.macKey s.source } := by
  simp only [bodyOf, bodyMac, h]

theorem bodyOf_verify_of_legal (h : validateMac s.mkeyLen = none) :
    bodyOf .verify s =
      .succeed (.report (verify s.macKey s.source s.tagBytes s.tagiLen)) ([.v] ++ verifyPhases s.tagiLen)
        (Work.empty.verified s.macKey s.source s.tagiLen) := by
  simp only [bodyOf, bodyVerify, h]

theorem mac_endsReporting (hsrc : s.SourceInMem) (hkey : s.mkeyLen = 32#32) :
    EndsReporting .mac s false (fileOfBytes 8 (mac s.macKey s.source)) [.v, .mac] := by
  have hbody := bodyOf_mac_of_legal (validateMac_of_legal hkey)
  exact endsReporting_body (tag := some _) ((addressOk_mac_iff (.inl rfl)).2 hsrc) (by rw [hbody]; rfl)
    (by rw [hbody]; rfl)

/-- VERIFY ends with what `Verify` answers, for every claimed length. -/
theorem verify_endsReporting (hsrc : s.SourceInMem) (hkey : s.mkeyLen = 32#32) :
    EndsReporting .verify s (verify s.macKey s.source s.tagBytes s.tagiLen) s.tago
      ([.v] ++ verifyPhases s.tagiLen) := by
  have hbody := bodyOf_verify_of_legal (validateMac_of_legal hkey)
  exact endsReporting_body (tag := none) ((addressOk_mac_iff (.inr rfl)).2 hsrc) (by rw [hbody]; rfl)
    (by rw [hbody]; rfl)

end

/-! #### The statements -/

/-- Settles O37: the tag is the first 8 of the 32 HMAC bytes; the claimed length is looked at first, and behind it the
comparison is equality. -/
theorem verifyIsEqualityWithTheTag : Obligations.VerifyIsEqualityWithTheTag :=
  fun k d t tl _ => ⟨mac_length k d, verify_eq_true_iff k d t tl⟩

/-- Settles O51: behind the address check and a legal key length MAC ends with the tag of the source, whose 8 bytes
fill TAGO; each check that fails is the error it ends with. -/
theorem macPutsTheTagIntoTago : Obligations.MacPutsTheTagIntoTago :=
  ⟨rfl, fun k d => ⟨rfl, hmacSha256_length k d⟩, fun s =>
    ⟨fun hsrc hkey => ⟨_, fileOfBytes_toList (mac_length s.macKey s.source), mac_endsReporting hsrc hkey⟩,
      mac_errors (.inl rfl) s⟩⟩

/-- Settles O52: likewise for VERIFY, which reports what `Verify` answers: for TAGI_LEN 8 the comparison, otherwise a
mismatch without computing a tag. -/
theorem verifyReportsTheMatch : Obligations.VerifyReportsTheMatch := by
  refine ⟨rfl, fun s => ⟨fun hsrc hkey hlen => ?_, fun hsrc hkey hlen => ?_, mac_errors (.inr rfl) s⟩⟩
  · have hends := verify_endsReporting hsrc hkey
    rwa [hlen, verify_length8] at hends
  · have hends := verify_endsReporting hsrc hkey
    rwa [verify_of_length_ne _ _ _ hlen, verifyPhases_of_length_ne hlen] at hends

end Sys2Proof.Machine

namespace Sys2Proof.Machine

/-! ### The envelope: SEAL and OPEN (45_envelope.md R165 to R180)

All six commands look at the addresses and the lengths first, so one lemma says how they end there. Behind that, SEAL
succeeds, and each body of OPEN is said once for each of its tests that can decide. `open_endsWithOutput` speaks of all
three scopes: the tag is that of the scope's MAC input over the plaintext that comes out. The round trip is that lemma
on the ciphertext and the tag that SEAL stored. -/

/-! #### How a command ends, from its whole body -/

section
variable {i : Instr} {s : State} {phases : List Phase} {work : Work}

theorem endsWithError_of_bodyOf {e : ErrorKind} (ha : s.addressOk i = true)
    (hbody : bodyOf i s = .raise e phases work) : EndsWithError i s e phases :=
  endsWithError_body ha (by rw [hbody]; rfl) (by rw [hbody]; rfl)

theorem endsWithOutput_of_bodyOf {out : List Byte} {tag : Option (Vector Byte 8)} (ha : s.addressOk i = true)
    (hbody : bodyOf i s =
      .succeed { out := some out, tag := tag, matched := false, wipe := false } phases work) :
    EndsWithOutput i s out (tag.getD s.tago) phases :=
  endsWithOutput_body ha (by rw [hbody]; rfl) (by rw [hbody]; rfl)

end

/-! #### The verification inside OPEN (44_mac.md R156) -/

theorem verify_of_mac_ne {k d t : List Byte} (h : mac k d ≠ t) (tl : Word) : verify k d t tl = false :=
  Bool.eq_false_iff.2 fun hok => h ((verify_eq_true_iff k d t tl).1 hok).2

theorem verifyPhases_length8 : verifyPhases 8#32 = [.mac, .cmp] := rfl

/-- A verification that passes has computed and compared the tag. -/
theorem verifyPhases_of_verify {k d t : List Byte} {tl : Word} (h : verify k d t tl = true) :
    verifyPhases tl = [.mac, .cmp] := by
  rw [((verify_eq_true_iff k d t tl).1 h).1, verifyPhases_length8]

/-- The two scopes of R170. -/
theorem scope_verifyFirst {scope : MacScope} (hscope : scope ≠ .plaintextOnly) :
    scope = .ciphertextOnly ∨ scope = .ivThenCiphertext := by
  cases scope with
  | ciphertextOnly => exact .inl rfl
  | ivThenCiphertext => exact .inr rfl
  | plaintextOnly => exact absurd rfl hscope

/-- Where OPEN verifies first there is no plaintext yet, and the MAC input does not depend on it (R165). -/
theorem macInput_of_ne_plaintextOnly {scope : MacScope} (hscope : scope ≠ .plaintextOnly) (iv ct pt pt' : List Byte) :
    macInput scope iv ct pt = macInput scope iv ct pt' := by
  rcases scope_verifyFirst hscope with rfl | rfl <;> rfl

/-- The marks of a success that verified first (40_lifecycle.md R123). -/
theorem openPhases_of_ne_plaintextOnly {scope : MacScope} (hscope : scope ≠ .plaintextOnly) :
    openPhases scope = [.v, .mac, .cmp, .dec, .unpad] := by
  rcases scope_verifyFirst hscope with rfl | rfl <;> rfl

/-! #### The bodies, by the test that decides (R166, R170, R171) -/

section
variable {scope : MacScope} {o : EnvelopeParams} {t ct pt : List Byte} {tl : Word}

theorem bodySeal_of_legal (hval : validate o.ckl o.mkl o.ivl = none) :
    bodySeal scope o pt =
      .succeed { out := some (sealedText o pt), tag := some (fileOfBytes 8 (sealedTag scope o pt)),
                 matched := false, wipe := false } [.v, .pad, .enc, .mac]
        { Work.empty with
          keySchedule := keyScheduleBytes o.cipherKey, padded := pad pt, ciphertext := sealedText o pt
          digest := hmacSha256 o.macKey (macInput scope o.iv (sealedText o pt) pt)
          tag := sealedTag scope o pt } := by
  simp only [bodySeal, hval]

/-- What R170 has in WORK once it has verified. -/
def verifiedWork (scope : MacScope) (o : EnvelopeParams) (tl : Word) (ct : List Byte) : Work :=
  Work.empty.verified o.macKey (macInput scope o.iv ct []) tl

theorem bodyOpenVerifyFirst_of_mismatch (hval : validate o.ckl o.mkl o.ivl = none)
    (hver : verify o.macKey (macInput scope o.iv ct []) t tl = false) :
    bodyOpenVerifyFirst scope o t tl ct =
      .raise .authenticationFailure ([.v] ++ verifyPhases tl) (verifiedWork scope o tl ct) := by
  simp only [bodyOpenVerifyFirst, hval, hver, Bool.false_eq_true, if_false, verifiedWork]

theorem bodyOpenVerifyFirst_of_partial_block (hval : validate o.ckl o.mkl o.ivl = none)
    (hver : verify o.macKey (macInput scope o.iv ct []) t tl = true) (hlen : ct.length % 16 ≠ 0) :
    bodyOpenVerifyFirst scope o t tl ct =
      .raise .invalidInputLength [.v, .mac, .cmp] (verifiedWork scope o tl ct) := by
  simp only [bodyOpenVerifyFirst, hval, if_pos hver, if_pos hlen, verifyPhases_of_verify hver, verifiedWork]
  rfl

theorem bodyOpenVerifyFirst_of_bad_padding (hval : validate o.ckl o.mkl o.ivl = none)
    (hver : verify o.macKey (macInput scope o.iv ct []) t tl = true) (hlen : ct.length % 16 = 0)
    (hpad : unpad (cbcDec o.cipherKey o.iv ct) = none) :
    bodyOpenVerifyFirst scope o t tl ct =
      .raise .authenticationFailure [.v, .mac, .cmp, .dec, .unpad] ((verifiedWork scope o tl ct).opened o ct) := by
  simp only [bodyOpenVerifyFirst, hval, if_pos hver, if_neg (not_not.2 hlen), hpad, verifyPhases_of_verify hver,
    verifiedWork]
  rfl

theorem bodyOpenVerifyFirst_of_good (hval : validate o.ckl o.mkl o.ivl = none)
    (hver : verify o.macKey (macInput scope o.iv ct []) t tl = true) (hlen : ct.length % 16 = 0)
    (hpad : unpad (cbcDec o.cipherKey o.iv ct) = some pt) :
    bodyOpenVerifyFirst scope o t tl ct =
      .succeed (.output pt) [.v, .mac, .cmp, .dec, .unpad]
        { (verifiedWork scope o tl ct).opened o ct with recovered := pt } := by
  simp only [bodyOpenVerifyFirst, hval, if_pos hver, if_neg (not_not.2 hlen), hpad, verifyPhases_of_verify hver,
    verifiedWork]
  rfl

theorem bodyOpenPlaintext_of_partial_block (hval : validate o.ckl o.mkl o.ivl = none) (hlen : ct.length % 16 ≠ 0) :
    bodyOpenPlaintext o t tl ct = .raise .invalidInputLength [.v] Work.empty := by
  simp only [bodyOpenPlaintext, hval, if_pos hlen]

theorem bodyOpenPlaintext_of_bad_padding (hval : validate o.ckl o.mkl o.ivl = none) (hlen : ct.length % 16 = 0)
    (hpad : unpad (cbcDec o.cipherKey o.iv ct) = none) :
    bodyOpenPlaintext o t tl ct =
      .raise .authenticationFailure [.v, .dec, .unpad] (Work.empty.opened o ct) := by
  simp only [bodyOpenPlaintext, hval, if_neg (not_not.2 hlen), hpad]

/-- What R171 has in WORK once it has verified the plaintext it recovered. -/
def openedWork (o : EnvelopeParams) (tl : Word) (ct pt : List Byte) : Work :=
  { Work.empty.opened o ct with recovered := pt }.verified o.macKey pt tl

theorem bodyOpenPlaintext_of_mismatch (hval : validate o.ckl o.mkl o.ivl = none) (hlen : ct.length % 16 = 0)
    (hpad : unpad (cbcDec o.cipherKey o.iv ct) = some pt) (hver : verify o.macKey pt t tl = false) :
    bodyOpenPlaintext o t tl ct =
      .raise .authenticationFailure ([.v, .dec, .unpad] ++ verifyPhases tl) (openedWork o tl ct pt) := by
  simp only [bodyOpenPlaintext, hval, if_neg (not_not.2 hlen), hpad, hver, Bool.false_eq_true, if_false, openedWork]

theorem bodyOpenPlaintext_of_good (hval : validate o.ckl o.mkl o.ivl = none) (hlen : ct.length % 16 = 0)
    (hpad : unpad (cbcDec o.cipherKey o.iv ct) = some pt) (hver : verify o.macKey pt t tl = true) :
    bodyOpenPlaintext o t tl ct =
      .succeed (.output pt) [.v, .dec, .unpad, .mac, .cmp] (openedWork o tl ct pt) := by
  simp only [bodyOpenPlaintext, hval, if_neg (not_not.2 hlen), hpad, if_pos hver, verifyPhases_of_verify hver,
    openedWork]
  rfl

end

/-! #### What the six commands share -/

section
variable {s : State} {i : Instr} {scope : MacScope}

/-- The commands of the envelope (R166, R170, R171). -/
abbrev IsEnvelopeCommand (i : Instr) : Prop :=
  ∃ scope, i = sealOf scope ∨ i = openOf scope

theorem bodyOf_sealOf (scope : MacScope) (s : State) :
    bodyOf (sealOf scope) s = bodySeal scope s.envelopeParams s.source := by
  cases scope <;> rfl

theorem bodyOf_openOf (hscope : scope ≠ .plaintextOnly) (s : State) :
    bodyOf (openOf scope) s = bodyOpenVerifyFirst scope s.envelopeParams s.tagBytes s.tagiLen s.source := by
  rcases scope_verifyFirst hscope with rfl | rfl <;> rfl

theorem usesSource_envelope (hi : IsEnvelopeCommand i) : usesSource i = true := by
  obtain ⟨scope, rfl | rfl⟩ := hi <;> cases scope <;> rfl

theorem outMax_sealOf (scope : MacScope) (n : Nat) : outMax (sealOf scope) n = some (16 * (n / 16 + 1)) := by
  cases scope <;> rfl

theorem outMax_openOf (scope : MacScope) (n : Nat) : outMax (openOf scope) n = some n := by
  cases scope <;> rfl

theorem addressOk_envelope_iff (hi : IsEnvelopeCommand i) {n : Nat} (hn : outMax i s.srcLen.toNat = some n) :
    s.addressOk i = true ↔ s.SourceInMem ∧ s.RoomFor n :=
  addressOk_iff_both (usesSource_envelope hi) hn

theorem addressOk_sealOf (hsrc : s.SourceInMem) (hroom : s.RoomFor (16 * (s.srcLen.toNat / 16 + 1))) :
    s.addressOk (sealOf scope) = true :=
  (addressOk_envelope_iff ⟨scope, .inl rfl⟩ (outMax_sealOf scope _)).2 ⟨hsrc, hroom⟩

theorem addressOk_openOf (hsrc : s.SourceInMem) (hroom : s.RoomFor s.srcLen.toNat) :
    s.addressOk (openOf scope) = true :=
  (addressOk_envelope_iff ⟨scope, .inr rfl⟩ (outMax_openOf scope _)).2 ⟨hsrc, hroom⟩

theorem bodyOf_envelope_of_illegal (hi : IsEnvelopeCommand i) {e : ErrorKind}
    (h : validate s.ckeyLen s.mkeyLen s.ivLen = some e) : bodyOf i s = .raise e [.v] Work.empty := by
  have hparams : validate s.envelopeParams.ckl s.envelopeParams.mkl s.envelopeParams.ivl = some e := h
  obtain ⟨scope, rfl | rfl⟩ := hi
  · simp only [bodyOf_sealOf, bodySeal, hparams]
  · by_cases hscope : scope = .plaintextOnly
    · subst hscope
      simp only [openOf, bodyOf, bodyOpenPlaintext, hparams]
    · simp only [bodyOf_openOf hscope, bodyOpenVerifyFirst, hparams]

/-- The error clauses all six share: the address check, then the validator. -/
theorem envelope_errors (hi : IsEnvelopeCommand i) {n : Nat} (hn : outMax i s.srcLen.toNat = some n) :
    (¬ s.SourceInMem ∨ ¬ s.RoomFor n → EndsWithError i s .addressError []) ∧
    (s.SourceInMem → s.RoomFor n → ¬ s.KeysOk → EndsWithError i s .invalidKeyLength [.v]) ∧
    (s.SourceInMem → s.RoomFor n → s.KeysOk → s.ivLen ≠ 16#32 → EndsWithError i s .invalidIVLength [.v]) := by
  have hcheck := addressOk_envelope_iff hi hn
  refine ⟨endsWithError_of_outside hcheck, fun hsrc hroom hkeys => ?_, fun hsrc hroom hkeys hiv => ?_⟩
  · exact endsWithError_of_bodyOf (hcheck.2 ⟨hsrc, hroom⟩)
      (bodyOf_envelope_of_illegal hi (validate_of_not_keysOk hkeys))
  · exact endsWithError_of_bodyOf (hcheck.2 ⟨hsrc, hroom⟩)
      (bodyOf_envelope_of_illegal hi (validate_of_ivLen_ne hkeys hiv))

/-! #### What SEAL stores (R166) -/

theorem seal_endsWithOutput (ha : s.addressOk (sealOf scope) = true) (hlen : s.LengthsOk) :
    EndsWithOutput (sealOf scope) s (sealedText s.envelopeParams s.source)
      (fileOfBytes 8 (sealedTag scope s.envelopeParams s.source)) [.v, .pad, .enc, .mac] :=
  endsWithOutput_of_bodyOf (tag := some _) ha
    ((bodyOf_sealOf scope s).trans (bodySeal_of_legal (validate_of_lengthsOk hlen)))

theorem sealedTag_length (scope : MacScope) (o : EnvelopeParams) (pt : List Byte) :
    (sealedTag scope o pt).length = 8 :=
  mac_length _ _

/-! #### The errors of OPEN behind the validator (R170, R171) -/

theorem openVerifyFirst_endsWithError (hscope : scope ≠ .plaintextOnly) (hsrc : s.SourceInMem)
    (hroom : s.RoomFor s.srcLen.toNat) {e : ErrorKind} {phases : List Phase} {work : Work}
    (hbody : bodyOpenVerifyFirst scope s.envelopeParams s.tagBytes s.tagiLen s.source = .raise e phases work) :
    EndsWithError (openOf scope) s e phases :=
  endsWithError_of_bodyOf (addressOk_openOf hsrc hroom) ((bodyOf_openOf hscope s).trans hbody)

theorem openPlaintext_endsWithError (hsrc : s.SourceInMem) (hroom : s.RoomFor s.srcLen.toNat)
    {e : ErrorKind} {phases : List Phase} {work : Work}
    (hbody : bodyOpenPlaintext s.envelopeParams s.tagBytes s.tagiLen s.source = .raise e phases work) :
    EndsWithError .openPt s e phases :=
  endsWithError_of_bodyOf (addressOk_openOf (scope := .plaintextOnly) hsrc hroom) hbody

/-- R170: a verification that fails is AuthenticationFailure, with the marks of what it looked at. -/
theorem openVerifyFirst_endsWithError_of_mismatch (hscope : scope ≠ .plaintextOnly) (hsrc : s.SourceInMem)
    (hroom : s.RoomFor s.srcLen.toNat) (hlen : s.LengthsOk)
    (hver : verify s.macKey (macInput scope s.ivBytes s.source []) s.tagBytes s.tagiLen = false) :
    EndsWithError (openOf scope) s .authenticationFailure ([.v] ++ verifyPhases s.tagiLen) :=
  openVerifyFirst_endsWithError hscope hsrc hroom (bodyOpenVerifyFirst_of_mismatch (validate_of_lengthsOk hlen) hver)

/-- R171: likewise, after the marks of the decryption. -/
theorem openPlaintext_endsWithError_of_mismatch {pt : List Byte} (hsrc : s.SourceInMem)
    (hroom : s.RoomFor s.srcLen.toNat) (hlen : s.LengthsOk) (hblocks : s.source.length % 16 = 0)
    (hpad : unpad (cbcDec s.cipherKey s.ivBytes s.source) = some pt)
    (hver : verify s.macKey pt s.tagBytes s.tagiLen = false) :
    EndsWithError .openPt s .authenticationFailure ([.v, .dec, .unpad] ++ verifyPhases s.tagiLen) :=
  openPlaintext_endsWithError hsrc hroom (bodyOpenPlaintext_of_mismatch (validate_of_lengthsOk hlen) hblocks hpad hver)

/-! #### What OPEN stores (R170, R171) -/

/-- Behind the checks, with the tag of the scope's MAC input and a good padding, OPEN ends with the plaintext. -/
theorem open_endsWithOutput {pt : List Byte} (ha : s.addressOk (openOf scope) = true) (hlen : s.LengthsOk)
    (htl : s.tagiLen = 8#32) (hmac : mac s.macKey (macInput scope s.ivBytes s.source pt) = s.tagBytes)
    (hblocks : s.source.length % 16 = 0) (hpad : unpad (cbcDec s.cipherKey s.ivBytes s.source) = some pt) :
    EndsWithOutput (openOf scope) s pt s.tago (openPhases scope) := by
  have hval := validate_of_lengthsOk hlen
  have hver := (verify_eq_true_iff _ _ _ _).2 ⟨htl, hmac⟩
  by_cases hscope : scope = .plaintextOnly
  · subst hscope
    exact endsWithOutput_of_bodyOf (tag := none) ha (bodyOpenPlaintext_of_good hval hblocks hpad hver)
  · rw [macInput_of_ne_plaintextOnly hscope _ _ pt []] at hver
    rw [openPhases_of_ne_plaintextOnly hscope]
    exact endsWithOutput_of_bodyOf (tag := none) ha
      ((bodyOf_openOf hscope s).trans (bodyOpenVerifyFirst_of_good hval hver hblocks hpad))

end

/-! #### The round trip (R180) -/

/-- What SEAL made of a plaintext decrypts and unpads to it. -/
theorem unpad_cbcDec_sealedText {o : EnvelopeParams} (hiv : o.iv.length = 16) (pt : List Byte) :
    unpad (cbcDec o.cipherKey o.iv (sealedText o pt)) = some pt := by
  rw [sealedText, cbcDec_cbcEnc _ hiv (pad_length_mod pt), unpad_pad]

/-- A stored byte string reads back. -/
theorem StoresAt.readN_eq {s t : State} {a : Nat} {out : List Byte} (h : StoresAt s t a out) :
    Memory.readN t.mem a out.length = out := by
  apply List.ext_getElem
  · rw [Memory.readN_length]
  · intro k hk hout
    rw [← List.getD_eq_getElem _ 0#8 hk, Memory.readN_getD hout, h.1 k hout, List.getD_eq_getElem _ _ hout]

theorem lengthsOk_of_envelopeParams_eq {s u : State} (h : u.envelopeParams = s.envelopeParams) (hlen : s.LengthsOk) :
    u.LengthsOk := by
  have hckl : u.ckeyLen = s.ckeyLen := congrArg EnvelopeParams.ckl h
  have hmkl : u.mkeyLen = s.mkeyLen := congrArg EnvelopeParams.mkl h
  have hivl : u.ivLen = s.ivLen := congrArg EnvelopeParams.ivl h
  rwa [State.LengthsOk, State.KeysOk, State.CipherKeyOk, hckl, hmkl, hivl]

/-- What stands in DST and TAGO after a SEAL that succeeded. -/
theorem stored_of_seal {s t : State} {scope : MacScope} (ha : s.addressOk (sealOf scope) = true) (hlen : s.LengthsOk)
    (h : exec (sealOf scope) s = .next t) :
    Memory.readN t.mem s.dstAddr.toNat t.dstLen.toNat = sealedText s.envelopeParams s.source ∧
      t.tago.toList = sealedTag scope s.envelopeParams s.source := by
  obtain ⟨t', ht', hstores, hdst, hstate⟩ := seal_endsWithOutput ha hlen
  obtain rfl : t' = t := by rw [h] at ht'; cases ht'; rfl
  have htago : t'.tago = fileOfBytes 8 (sealedTag scope s.envelopeParams s.source) := congrArg State.tago hstate
  rw [hdst, hstores.readN_eq, htago, fileOfBytes_toList (sealedTag_length scope _ _)]
  exact ⟨rfl, rfl⟩

/-! #### The statements -/

/-- Settles O53: behind the address check and legal lengths SEAL ends with the ciphertext of the padded source and the
tag of the scope's MAC input; each check that fails is the error it ends with. -/
theorem sealStoresCiphertextAndTag : Obligations.SealStoresCiphertextAndTag := by
  refine ⟨rfl, rfl, rfl, fun iv ct pt => ⟨rfl, rfl, rfl⟩, fun scope s =>
    ⟨fun hsrc hroom hlen => ?_, envelope_errors ⟨scope, .inl rfl⟩ (outMax_sealOf scope _)⟩⟩
  refine ⟨_, _, rfl, ?_, fileOfBytes_toList (sealedTag_length scope s.envelopeParams s.source),
    seal_endsWithOutput (addressOk_sealOf hsrc hroom) hlen⟩
  exact (sealedText_length s.envelopeParams s.source).trans (by rw [s.source_length])

/-- Settles O54: the eight clauses are the tests of R170 in their order; the marks of a failed verification stop before
DEC, since the body raises there. -/
theorem openVerifiesThenDecrypts : Obligations.OpenVerifiesThenDecrypts := by
  refine ⟨rfl, rfl, fun scope s hscope => ?_⟩
  obtain ⟨haddress, hkeys, hiv⟩ := envelope_errors (s := s) ⟨scope, .inr rfl⟩ (outMax_openOf scope _)
  refine ⟨haddress, hkeys, hiv, fun hsrc hroom hlen htl => ?badLength, fun hsrc hroom hlen htl hmac => ?badTag,
    fun hsrc hroom hlen htl hmac hblocks => ?partialBlock, fun hsrc hroom hlen htl hmac hblocks hpad => ?badPadding,
    fun pt hsrc hroom hlen htl hmac hblocks hpad => ?good⟩
  case badLength =>
    have hends := openVerifyFirst_endsWithError_of_mismatch hscope hsrc hroom hlen (verify_of_length_ne _ _ _ htl)
    rwa [verifyPhases_of_length_ne htl] at hends
  case badTag =>
    have hends := openVerifyFirst_endsWithError_of_mismatch hscope hsrc hroom hlen (verify_of_mac_ne hmac _)
    rwa [htl, verifyPhases_length8] at hends
  case partialBlock =>
    exact openVerifyFirst_endsWithError hscope hsrc hroom (bodyOpenVerifyFirst_of_partial_block
      (validate_of_lengthsOk hlen) ((verify_eq_true_iff _ _ _ _).2 ⟨htl, hmac⟩) (by rwa [s.source_length]))
  case badPadding =>
    exact openVerifyFirst_endsWithError hscope hsrc hroom (bodyOpenVerifyFirst_of_bad_padding
      (validate_of_lengthsOk hlen) ((verify_eq_true_iff _ _ _ _).2 ⟨htl, hmac⟩) (by rwa [s.source_length]) hpad)
  case good =>
    rw [macInput_of_ne_plaintextOnly hscope _ _ [] pt] at hmac
    rw [← openPhases_of_ne_plaintextOnly hscope]
    exact open_endsWithOutput (addressOk_openOf hsrc hroom) hlen htl hmac (by rwa [s.source_length]) hpad

/-- Settles O55: likewise for R171, where the plaintext is recovered before it is verified. -/
theorem openPlaintextDecryptsThenVerifies : Obligations.OpenPlaintextDecryptsThenVerifies := by
  refine ⟨rfl, fun s => ?_⟩
  obtain ⟨haddress, hkeys, hiv⟩ :=
    envelope_errors (s := s) ⟨.plaintextOnly, .inr rfl⟩ (outMax_openOf .plaintextOnly _)
  refine ⟨haddress, hkeys, hiv, fun hsrc hroom hlen hblocks => ?partialBlock,
    fun hsrc hroom hlen hblocks hpad => ?badPadding, fun pt hsrc hroom hlen hblocks hpad =>
      ⟨fun htl => ?badLength, fun htl hmac => ?badTag, fun htl hmac => ?good⟩⟩
  all_goals rw [← s.source_length] at hblocks
  case partialBlock =>
    exact openPlaintext_endsWithError hsrc hroom
      (bodyOpenPlaintext_of_partial_block (validate_of_lengthsOk hlen) hblocks)
  case badPadding =>
    exact openPlaintext_endsWithError hsrc hroom
      (bodyOpenPlaintext_of_bad_padding (validate_of_lengthsOk hlen) hblocks hpad)
  case badLength =>
    have hends := openPlaintext_endsWithError_of_mismatch hsrc hroom hlen hblocks hpad (verify_of_length_ne _ _ _ htl)
    rwa [verifyPhases_of_length_ne htl] at hends
  case badTag =>
    have hends := openPlaintext_endsWithError_of_mismatch hsrc hroom hlen hblocks hpad (verify_of_mac_ne hmac _)
    rwa [htl, verifyPhases_length8] at hends
  case good =>
    exact open_endsWithOutput (scope := .plaintextOnly) (addressOk_openOf hsrc hroom) hlen htl hmac hblocks hpad

/-- Settles O57: the source of OPEN is the ciphertext SEAL stored, so its MAC input has the tag SEAL put into TAGO, and
its decryption unpads to the plaintext. -/
theorem openReturnsWhatSealSealed : Obligations.OpenReturnsWhatSealSealed := by
  intro scope s t u hlen hsrc hroom hseal hparams htagi htl husrc huroom hsource
  obtain ⟨hct, htag⟩ := stored_of_seal (addressOk_sealOf hsrc hroom) hlen hseal
  rw [hct, ← hparams] at hsource
  have hmac : mac u.macKey (macInput scope u.ivBytes u.source s.source) = u.tagBytes := by
    rw [State.tagBytes, htagi, htag, hsource, ← hparams]
    rfl
  have hblocks : u.source.length % 16 = 0 := by
    rw [hsource, sealedText_length, Nat.mul_mod_right]
  have hpad : unpad (cbcDec u.cipherKey u.ivBytes u.source) = some s.source := by
    rw [hsource]
    exact unpad_cbcDec_sealedText (o := u.envelopeParams) u.ivBytes_length s.source
  exact open_endsWithOutput (addressOk_openOf husrc huroom) (lengthsOk_of_envelopeParams_eq hparams hlen) htl hmac
    hblocks hpad

end Sys2Proof.Machine

namespace Sys2Proof.Machine

/-! ### WIPE and illegal command words (46_system.md R185, R186) -/

/-! #### The sequencer's turn at a word that is no command -/

/-- The decoder answers a command on the fourteen words only (30_encoding.md R94). -/
theorem decode_ne_ok_of_illegal {w : Word} (hw : ∀ i, w ≠ encode i) (i : Instr) : decode w ≠ .ok i :=
  fun h => hw i ((decode_eq_ok_iff w i).1 h)

section
variable {s : State}

/-- Of what a turn can do at a busy state, only the illegal word's completion is left. -/
theorem State.sequencerTurn_of_illegal (hbusy : s.status.busy = true) (hw : ∀ i, s.lcmd ≠ encode i) :
    s.sequencerTurn = .next (s.errorCompletion .illegalCommand) := by
  obtain ⟨hidle, _⟩ | ⟨_, _, hturn⟩ | ⟨i, _, _, hdecode, _⟩ := s.sequencerTurn_cases
  · simp [hidle] at hbusy
  · exact hturn
  · exact absurd hdecode (decode_ne_ok_of_illegal hw i)

/-- Where the host plans nothing more. -/
theorem step_nil_of_illegal (h : s.agenda = []) (hbusy : s.status.busy = true) (hw : ∀ i, s.lcmd ≠ encode i) :
    step s = .next (s.errorCompletion .illegalCommand) := by
  rw [step_nil h, State.sequencerTurn_of_illegal hbusy hw]

/-- Where the sequencer's turn is the next entry. -/
theorem step_sequencer_of_illegal {rest : List Event} (h : s.agenda = .sequencer :: rest)
    (hbusy : s.status.busy = true) (hw : ∀ i, s.lcmd ≠ encode i) :
    step s = .next (State.errorCompletion { s with agenda := rest } .illegalCommand) := by
  rw [step_sequencer h, State.sequencerTurn_of_illegal (s := { s with agenda := rest }) hbusy hw]

end

/-! #### WIPE -/

/-- WIPE passes the address check (40_lifecycle.md R116), appends no phase, and commits the wiped state. -/
theorem exec_wipe (s : State) : exec .wipe s = .next { s.wiped with status := s.status.succeeded false } := by
  have hcheck : s.addressOk .wipe = true := rfl
  have hrecorded : (s.recorded [] Work.empty).wiped = s.wiped := by simp [State.recorded, State.wiped]
  rw [exec_eq, if_pos hcheck, State.complete_ok rfl, State.commit_wipe]
  simp only [bodyOf, bodyWipe, CommandRun.succeed, hrecorded, State.recorded_status]

/-! #### The statements -/

/-- Settles O4: an issue leaves the machine busy with its word in LCMD, so its completion is one of the turns at an
illegal word; STATUS is read off the error completion. -/
theorem illegalWordCompletesWithError : Obligations.IllegalWordCompletesWithError := by
  refine ⟨fun s w hw h => ?issued, fun s hbusy hw => ⟨fun h => ?nothingPlanned, fun rest h => ?sequencerNext⟩,
    by decide, by decide⟩
  case issued => exact step_nil_of_illegal (s := s.issue w) h rfl hw
  case nothingPlanned => exact step_nil_of_illegal h hbusy hw
  case sequencerNext => exact step_sequencer_of_illegal h hbusy hw

/-- Settles O56: WIPE answers the wiped state, whose MEM holds no cell. -/
theorem wipeClearsEverything : Obligations.WipeClearsEverything :=
  ⟨rfl, fun s => ⟨[], Memory.read_nil, exec_wipe s⟩⟩

end Sys2Proof.Machine

namespace Sys2Proof.Machine

/-! ### The tables and the known answers of the block primitive (48_prim_aes.md R203, R204, R213) -/

/-! #### The S-box and the field

The tables are data, so what ties them to the field is checked in the kernel at each of the 256 bytes. The costly part
is the power 254 in `gfInv`; it is computed once, by reading the inverse back off the table (`gfInv_eq`), and the facts
about the inverse follow from the table. -/

/-- The affine map of the S-box (48_prim_aes.md R203; `sboxAlgebraic_eq`). -/
def sboxAffine (b : Byte) : Byte :=
  b ^^^ b.rotateLeft 1 ^^^ b.rotateLeft 2 ^^^ b.rotateLeft 3 ^^^ b.rotateLeft 4 ^^^ 0x63#8

/-- The inverse of the affine map (`sboxAffine_invSboxAffine`). -/
def invSboxAffine (b : Byte) : Byte :=
  b.rotateLeft 1 ^^^ b.rotateLeft 3 ^^^ b.rotateLeft 6 ^^^ 0x05#8

theorem sboxAlgebraic_eq (a : Byte) : sboxAlgebraic a = sboxAffine (gfInv a) := rfl

theorem sboxAffine_invSboxAffine (b : Byte) : sboxAffine (invSboxAffine b) = b := by
  revert b; decide +kernel

theorem gfInv_eq (a : Byte) : gfInv a = invSboxAffine (sbox a) := by
  revert a; decide +kernel

theorem sbox_eq_sboxAlgebraic (a : Byte) : sbox a = sboxAlgebraic a := by
  rw [sboxAlgebraic_eq, gfInv_eq, sboxAffine_invSboxAffine]

theorem gfMul_gfInv {a : Byte} (ha : a ≠ 0#8) : gfMul a (gfInv a) = 1#8 := by
  rw [gfInv_eq]
  revert a; decide +kernel

theorem gfInv_zero : gfInv 0#8 = 0#8 := by
  rw [gfInv_eq]
  decide

/-- Settles O38: the table is the algebraic S-box, byte by byte, and the named entries are looked up. -/
theorem sboxTablesAgreeWithTheField : Obligations.SboxTablesAgreeWithTheField :=
  ⟨fun a => ⟨sbox_eq_sboxAlgebraic a, invSbox_sbox a, sbox_invSbox a, gfMul_gfInv⟩, gfInv_zero, by decide⟩

/-! #### Known answers -/

/-- A known answer of `BlockEnc` is one of `BlockDec`, which needs no run of the inverse cipher. -/
theorem blockDec_eq_of_blockEnc_eq {k b c : List Byte} (hb : b.length = 16) (henc : blockEnc k b = c) :
    blockDec k c = b := by
  rw [← henc, blockDec_blockEnc k hb]

/-- Settles O40: the cipher is run on the five rows; the way back is its inverse. -/
theorem blockCipherKnownAnswers : Obligations.BlockCipherKnownAnswers := by
  unfold Obligations.BlockCipherKnownAnswers
  intro seq b1 c1 c2 c3 c4 b5 c5 z
  have counting128 : blockEnc (seq 16) b1 = c1 := by decide +kernel +zetaReduce
  have counting256 : blockEnc (seq 32) b1 = c2 := by decide +kernel +zetaReduce
  have zeros128 : blockEnc (z 16) (z 16) = c3 := by decide +kernel +zetaReduce
  have zeros256 : blockEnc (z 32) (z 16) = c4 := by decide +kernel +zetaReduce
  have text256 : blockEnc (z 32) b5 = c5 := by decide +kernel +zetaReduce
  exact ⟨counting128, blockDec_eq_of_blockEnc_eq rfl counting128,
    counting256, blockDec_eq_of_blockEnc_eq rfl counting256,
    zeros128, blockDec_eq_of_blockEnc_eq rfl zeros128,
    zeros256, blockDec_eq_of_blockEnc_eq rfl zeros256,
    text256, blockDec_eq_of_blockEnc_eq rfl text256⟩

end Sys2Proof.Machine

namespace Sys2Proof.Machine

/-! ### Completions (40_lifecycle.md R114, R118; 60_exceptions.md R241, R246, R250)

Every fact about the completion of a command is read off the five ways a command can end (`CommandEnds`). -/

/-! #### What every completion keeps and sets -/

section
variable {i : Instr} {s t : State}

/-- No command, WIPE included, changes CTRL, the machine's constant or the host's side. -/
theorem CommandEnds.keeps (h : CommandEnds i s t) :
    t.ctrl = s.ctrl ∧ t.memSize = s.memSize ∧ t.lcmd = s.lcmd ∧ t.resp = s.resp ∧ t.agenda = s.agenda := by
  cases h <;> exact ⟨rfl, rfl, rfl, rfl, rfl⟩

/-- R114: what every completion, error or success, makes of BUSY, DONE and LOCKERR. -/
theorem CommandEnds.completes (h : CommandEnds i s t) :
    t.status.busy = false ∧ t.status.done = true ∧ t.status.lockErr = s.status.lockErr := by
  cases h <;> exact ⟨rfl, rfl, rfl⟩

/-- R250: with DONE set, `irq` is the enable bit. -/
theorem CommandEnds.irq_eq (h : CommandEnds i s t) : t.irq = s.ctrl.ie := by
  obtain ⟨-, hdone, -⟩ := h.completes
  obtain ⟨hctrl, -⟩ := h.keeps
  rw [t.irq_eq, hdone, hctrl, Bool.true_and]

/-- R246: an error leaves the whole state but STATUS and the hidden records of the command. -/
theorem CommandEnds.eq_of_err {e : ErrorKind} (h : CommandEnds i s t) (herr : t.status.err = some e) :
    t = { s with status := s.status.failed e, trace := t.trace, work := t.work } := by
  cases h with
  | address => cases herr; rfl
  | error => cases herr; rfl
  | wiped => cases herr
  | report => cases herr
  | output => cases herr

/-- An error leaves no result where the issue left none. -/
theorem noResult_of_failed {e : ErrorKind} (hstatus : t.status = s.status.failed e) (hlen : t.dstLen = s.dstLen)
    (htago : t.tago = s.tago) (hissued : s.JustIssued) :
    t.status.matched = false ∧ t.dstLen = 0#32 ∧ t.tago = Vector.replicate 8 0#8 := by
  obtain ⟨hclean, hzero, hnone, -⟩ := hissued
  rw [hstatus, hlen, htago, Status.failed_matched, hclean]
  exact ⟨rfl, hzero, hnone⟩

end

end Sys2Proof.Machine

namespace Sys2Proof.Machine

/-! ### The step (20_memory.md R75; 40_lifecycle.md R114, R122)

`step_eq_take` has one equation for all steps: the next entry of the agenda is taken, and an empty agenda is a turn of
the sequencer. What a step can do is then what `State.take` does with each kind of entry. -/

/-- An empty agenda leaves the turn to the sequencer (log 12). -/
theorem step_eq_take (s : State) :
    step s = State.take { s with agenda := s.agenda.tail } (s.agenda.headD .sequencer) := by
  cases h : s.agenda with
  | nil =>
    have hsame : { s with agenda := ([] : List Event).tail } = s := by rw [List.tail_nil, ← h]
    rw [step_nil h, hsame]
    rfl
  | cons e rest =>
    rw [step, State.advance, h]
    rfl

section
variable {s t : State}

/-- A read is the bus's answer and nothing else (20_memory.md R67). -/
theorem State.hostRead_eq_respond (s : State) (off size : Nat) : ∃ r, s.hostRead off size = s.respond r := by
  rcases s.hostRead_cases off size with ⟨-, h⟩ | ⟨_, -, h⟩ | ⟨_, -, h⟩ <;> exact ⟨_, h⟩

/-- The turn of the sequencer at a busy state whose word decodes is the command. -/
theorem State.sequencerTurn_of_decode {i : Instr} (hbusy : s.status.busy = true) (hdecode : decode s.lcmd = .ok i) :
    s.sequencerTurn = exec i s := by
  rcases s.sequencerTurn_cases with ⟨hidle, -⟩ | ⟨-, ⟨e, he⟩, -⟩ | ⟨j, t, -, hj, hturn, hexec, -⟩
  · simp [hbusy] at hidle
  · rw [hdecode] at he; cases he
  · rw [hdecode] at hj; cases hj
    rw [hturn, hexec]

/-- At an idle state the turn changes nothing (60_exceptions.md R260). -/
theorem State.sequencerTurn_of_idle (hidle : s.status.busy = false) : s.sequencerTurn = .next s := by
  rcases s.sequencerTurn_cases with ⟨-, hturn⟩ | ⟨hbusy, -, -⟩ | ⟨_, _, hbusy, -⟩
  · exact hturn
  · simp [hidle] at hbusy
  · simp [hidle] at hbusy

/-- A turn of the sequencer answers a next state, and completes the command where there is one. -/
theorem State.sequencerTurn_next (s : State) :
    ∃ t, s.sequencerTurn = .next t ∧ (s.status.busy = true → t.status.busy = false ∧ t.status.done = true) := by
  rcases s.sequencerTurn_cases with ⟨hidle, hturn⟩ | ⟨-, -, hturn⟩ | ⟨i, t, -, -, hturn, -, hends⟩
  · exact ⟨s, hturn, by simp [hidle]⟩
  · exact ⟨_, hturn, fun _ => ⟨rfl, rfl⟩⟩
  · obtain ⟨hidle, hdone, -⟩ := hends.completes
    exact ⟨t, hturn, fun _ => ⟨hidle, hdone⟩⟩

theorem State.take_next (s : State) (e : Event) : ∃ t, s.take e = .next t := by
  cases e with
  | read off size => exact ⟨_, rfl⟩
  | write off size v => exact ⟨_, rfl⟩
  | sequencer => exact s.sequencerTurn_next.imp fun _ h => h.1
  | reset cells w => exact ⟨_, rfl⟩

/-! #### The command in execution, until it completes -/

/-- A read or write leaves the command in execution and the rest of the agenda (20_memory.md R70, R71). -/
theorem State.take_of_busy {e : Event} (hbusy : s.status.busy = true) (hreset : e.isReset = false) :
    ∃ t, s.take e = .next t ∧
      ((t.status.busy = false ∧ t.status.done = true) ∨ (t.status.busy = true ∧ t.agenda = s.agenda)) := by
  cases e with
  | read off size =>
    obtain ⟨r, hr⟩ := s.hostRead_eq_respond off size
    exact ⟨_, rfl, .inr (by rw [hr]; exact ⟨hbusy, rfl⟩)⟩
  | write off size v =>
    refine ⟨_, rfl, .inr ?_⟩
    rcases s.hostWrite_cases off size v with ⟨-, h⟩ | ⟨-, h⟩ | ⟨_, hidle, -⟩
    · rw [h]; exact ⟨hbusy, rfl⟩
    · rw [h]; exact ⟨hbusy, rfl⟩
    · simp [hbusy] at hidle
  | sequencer =>
    obtain ⟨t, ht, hdone⟩ := s.sequencerTurn_next
    exact ⟨t, ht, .inl (hdone hbusy)⟩
  | reset cells w => cases hreset

/-- A run of one step more. -/
theorem run_succ_of_step {k : Nat} (h : step s = .next t) :
    Host.Core.run Sys2Proof.core (k + 1) s = Host.Core.run Sys2Proof.core k t := by
  have hcore : Sys2Proof.core.step s = .next t := h
  simp only [Host.Core.run, hcore]

/-- Each entry of the agenda is one step, at which the command completes or the agenda gets shorter; behind the last
entry the sequencer's turn is left. -/
theorem run_completes (hbusy : s.status.busy = true) (hreset : ∀ e ∈ s.agenda, e.isReset = false) :
    ∃ k t, k ≤ s.agenda.length + 1 ∧ Host.Core.run Sys2Proof.core k s = .next t ∧
      t.status.busy = false ∧ t.status.done = true := by
  induction h : s.agenda generalizing s with
  | nil =>
    obtain ⟨t, ht, hdone⟩ := s.sequencerTurn_next
    exact ⟨1, t, le_rfl, run_succ_of_step ((step_nil h).trans ht), hdone hbusy⟩
  | cons e rest ih =>
    rw [h] at hreset
    obtain ⟨u, hu, hcases⟩ := State.take_of_busy (s := { s with agenda := rest }) hbusy (hreset e List.mem_cons_self)
    have hstep : step s = .next u := by rw [step_eq_take, h]; exact hu
    rcases hcases with hdone | ⟨hubusy, hurest⟩
    · exact ⟨1, u, by omega, run_succ_of_step hstep, hdone⟩
    · have hurest : u.agenda = rest := hurest
      obtain ⟨k, t, hk, hrun, hdone⟩ :=
        ih hubusy (fun e' he' => hreset e' (List.mem_cons_of_mem _ (hurest ▸ he'))) hurest
      exact ⟨k + 1, t, by rw [List.length_cons]; omega, (run_succ_of_step hstep).trans hrun, hdone⟩

end

/-! #### The statements -/

/-- Settles O5: at a busy state the sequencer's turn decodes LCMD, whether its entry stands next or nothing does. -/
theorem stepRunsTheLatchedCommand : Obligations.StepRunsTheLatchedCommand := by
  intro s i hbusy hdecode
  refine ⟨fun h => ?_, fun rest h => ?_⟩
  · rw [step_nil h, State.sequencerTurn_of_decode hbusy hdecode]
  · rw [step_sequencer h, State.sequencerTurn_of_decode (s := { s with agenda := rest }) hbusy hdecode]

/-- Settles O6: there is one law of the step for each kind of entry, and an idle turn changes nothing. -/
theorem stepTakesTheNextEntry : Obligations.StepTakesTheNextEntry := by
  intro s rest
  refine ⟨fun off size h => step_read h, fun off size v h => step_write h, fun cells w h => step_reset h,
    fun hidle h => ?_, fun hidle h => ?_⟩
  · rw [step_sequencer h, State.sequencerTurn_of_idle (s := { s with agenda := rest }) hidle]
  · rw [step_nil h, State.sequencerTurn_of_idle hidle]

/-- Settles O7: host transactions and resets answer by definition; a turn of the sequencer does since every command
ends (`exec_next`). -/
theorem everyStepAnswersNext : Obligations.EveryStepAnswersNext := by
  intro s
  rw [step_eq_take]
  exact State.take_next _ _

/-- Settles O8: by induction on the agenda, which each step before the completion shortens. -/
theorem issuedCommandCompletes : Obligations.IssuedCommandCompletes :=
  fun _ => run_completes

end Sys2Proof.Machine

namespace Sys2Proof.Machine

/-! ### The invariant of the machine (10_state.md R28, R34, R36 to R39; 40_lifecycle.md R111, R114)

Every kind of step keeps it. Steps that leave STATUS and the results alone, or change MEM only inside MEM_BYTES, fall
under `State.inv_of_same`; issue, the drop of a write, the acknowledgement and the completion are looked at one by one. -/

section
variable {s t : State}

/-! #### The host's transactions -/

theorem State.Inv.withAgenda (h : s.Inv) (rest : List Event) : State.Inv { s with agenda := rest } := by
  obtain ⟨-, hwf, hin, -⟩ := id h
  exact State.inv_of_same h rfl hwf hin rfl rfl rfl rfl rfl

theorem State.Inv.respond (h : s.Inv) (r : BusResponse) : (s.respond r).Inv := by
  obtain ⟨-, hwf, hin, -⟩ := id h
  exact State.inv_of_same h rfl hwf hin rfl rfl rfl rfl rfl

/-- A dropped write leaves the clean state of the command in execution, which leaves LOCKERR open. -/
theorem State.Inv.locked (h : s.Inv) : State.Inv { s with status := s.status.locked } := by
  obtain ⟨hsize, hwf, hin, hlen, hbusy, herr, hmatch⟩ := h
  refine ⟨hsize, hwf, hin, hlen, fun hb => ?_, herr, hmatch⟩
  obtain ⟨hstatus, hresults⟩ := hbusy hb
  exact ⟨congrArg Status.locked hstatus, hresults⟩

/-- The issue establishes every clause on flags and results (40_lifecycle.md R111). -/
theorem State.Inv.issue (h : s.Inv) (w : Word) : (s.issue w).Inv := by
  obtain ⟨hsize, hwf, hin, -⟩ := h
  exact ⟨hsize, hwf, hin, Nat.zero_le _, fun _ => ⟨rfl, rfl, rfl, rfl, rfl⟩, by simp, by simp⟩

/-- The acknowledgement touches DONE and LOCKERR of an idle machine, which no clause speaks of. -/
theorem State.Inv.acknowledge (h : s.Inv) (hidle : s.status.busy = false) (v : Word) : (s.acknowledge v).Inv := by
  obtain ⟨hsize, hwf, hin, hlen, -, herr, hmatch⟩ := h
  exact ⟨hsize, hwf, hin, hlen, by simp [hidle], herr, hmatch⟩

/-- A register write that is no issue and no acknowledgement changes an operand register or CTRL at most. -/
theorem State.writeReg_keeps {r : Reg} (hcmd : r ≠ .cmd) (hstatus : r ≠ .status) (v : Word) :
    (s.writeReg r v).memSize = s.memSize ∧ (s.writeReg r v).mem = s.mem ∧ (s.writeReg r v).dstLen = s.dstLen ∧
    (s.writeReg r v).status = s.status ∧ (s.writeReg r v).tago = s.tago ∧ (s.writeReg r v).trace = s.trace ∧
    (s.writeReg r v).work = s.work := by
  cases r with
  | cmd => exact absurd rfl hcmd
  | status => exact absurd rfl hstatus
  | _ => simp [State.writeReg]

theorem State.Inv.writeReg (h : s.Inv) (hidle : s.status.busy = false) (r : Reg) (v : Word) : (s.writeReg r v).Inv := by
  by_cases hcmd : r = .cmd
  · subst hcmd; exact h.issue v
  by_cases hstatus : r = .status
  · subst hstatus; exact h.acknowledge hidle v
  obtain ⟨-, hwf, hin, -⟩ := id h
  obtain ⟨hsize, hmem, hlen, hst, htago, htrace, hwork⟩ := s.writeReg_keeps hcmd hstatus v
  exact State.inv_of_same h hsize (hmem ▸ hwf) (hmem ▸ hin) hlen hst htago htrace hwork

/-- The window gives the host MEM and nothing past it (20_memory.md R65). -/
theorem State.Inv.writeTarget {off size : Nat} {target : Target} (h : s.Inv) (hidle : s.status.busy = false)
    (hreach : resolve s.memBytes off size = some target) (v : Word) : (s.writeTarget target size v).Inv := by
  cases target with
  | reg r => exact h.writeReg hidle r v
  | mem a =>
    obtain ⟨-, hwf, hin, -⟩ := id h
    obtain ⟨-, -, -, hroom⟩ := resolve_mem hreach
    exact State.inv_of_same h rfl (Memory.wf_writeN a _ hwf)
      (Memory.within_writeN hin (by rw [leBytes_length]; exact hroom)) rfl rfl rfl rfl rfl

theorem State.Inv.hostRead (h : s.Inv) (off size : Nat) : (s.hostRead off size).Inv := by
  obtain ⟨r, hr⟩ := s.hostRead_eq_respond off size
  rw [hr]
  exact h.respond r

theorem State.Inv.hostWrite (h : s.Inv) (off size : Nat) (v : Word) : (s.hostWrite off size v).Inv := by
  rcases s.hostWrite_cases off size v with ⟨-, hw⟩ | ⟨-, hw⟩ | ⟨target, hidle, hreach, hw⟩
  · rw [hw]; exact h.respond _
  · rw [hw]; exact h.locked.respond .ok
  · rw [hw]; exact (h.writeTarget hidle hreach v).respond .ok

/-! #### Reset and completion -/

theorem State.Inv.resetStep (h : s.Inv) (cells : List Host.Cell) (w : Word) : (s.resetStep cells w).Inv := by
  obtain ⟨hwf, hin⟩ := Memory.load_ok s.memBytes cells
  exact ⟨h.1, hwf, hin, Nat.zero_le _, by simp [State.reset], by simp [State.reset], by simp [State.reset]⟩

/-- An error completion leaves the results the issue cleared (60_exceptions.md R246). -/
theorem State.Inv.errorCompletion (h : s.Inv) (hissued : s.JustIssued) (phases : List Phase) (work : Work)
    (e : ErrorKind) : ((s.recorded phases work).errorCompletion e).Inv := by
  obtain ⟨hsize, hwf, hin, hlen, -⟩ := h
  have hclean := noResult_of_failed (s := s) (t := (s.recorded phases work).errorCompletion e) rfl rfl rfl hissued
  exact ⟨hsize, hwf, hin, hlen, by simp, fun _ => hclean, fun hmatch => by rw [hclean.1] at hmatch; cases hmatch⟩

/-- A command in execution ends in the invariant: an error has no result, a set MATCH stands alone, an output byte
string lies inside MEM (40_lifecycle.md R117). -/
theorem State.Inv.of_commandEnds {i : Instr} (h : s.Inv) (hbusy : s.status.busy = true) (hends : CommandEnds i s t) :
    t.Inv := by
  obtain ⟨hsize, hwf, hin, hlen, hissued, -⟩ := id h
  specialize hissued hbusy
  obtain ⟨-, hzero, hnone, -⟩ := id hissued
  cases hends with
  | address =>
    have hinv := h.errorCompletion hissued [] s.work .addressError
    simpa [State.recorded] using hinv
  | error e => exact h.errorCompletion hissued _ _ e
  | wiped => exact ⟨hsize, Memory.wf_nil, by simp, Nat.zero_le _, by simp, by simp, by simp⟩
  | report eff _ hr =>
    refine ⟨hsize, hwf, hin, hlen, by simp, by simp, fun hm => ⟨rfl, hzero, ?_⟩⟩
    obtain ⟨-, -, htag⟩ := (bodyOf_allowed hr).matched hm
    rw [htag]
    exact hnone
  | output eff out _ _ _ _ _ hfit =>
    refine ⟨hsize, Memory.wf_writeN _ _ hwf, Memory.within_writeN hin hfit, ?_, by simp, by simp, by simp⟩
    calc (BitVec.ofNat 32 out.length).toNat
        ≤ out.length := by rw [BitVec.toNat_ofNat]; exact Nat.mod_le _ _
      _ ≤ s.memSize.toNat := by omega

theorem State.Inv.sequencerTurn (h : s.Inv) (hturn : s.sequencerTurn = .next t) : t.Inv := by
  rcases s.sequencerTurn_cases with ⟨-, hs⟩ | ⟨hbusy, -, hs⟩ | ⟨i, u, hbusy, -, hs, -, hends⟩ <;>
    rw [hturn] at hs <;> cases hs
  · exact h
  · obtain ⟨-, -, -, -, hissued, -⟩ := id h
    have hinv := h.errorCompletion (hissued hbusy) [] s.work .illegalCommand
    simpa [State.recorded] using hinv
  · exact h.of_commandEnds hbusy hends

/-! #### Every step -/

theorem State.Inv.take {e : Event} (h : s.Inv) (ht : s.take e = .next t) : t.Inv := by
  cases e with
  | read off size => cases ht; exact h.hostRead off size
  | write off size v => cases ht; exact h.hostWrite off size v
  | sequencer => exact h.sequencerTurn ht
  | reset cells w => cases ht; exact h.resetStep cells w

theorem State.writeTarget_memSize (s : State) (target : Target) (size : Nat) (v : Word) :
    (s.writeTarget target size v).memSize = s.memSize := by
  cases target with
  | reg r => cases r <;> rfl
  | mem a => rfl

theorem State.hostWrite_memSize (s : State) (off size : Nat) (v : Word) :
    (s.hostWrite off size v).memSize = s.memSize := by
  rcases s.hostWrite_cases off size v with ⟨-, hw⟩ | ⟨-, hw⟩ | ⟨target, -, -, hw⟩ <;> rw [hw]
  · rfl
  · exact s.writeTarget_memSize target size v

/-- MEM_SIZE is a constant of the machine (10_state.md R34). -/
theorem State.take_memSize {e : Event} (ht : s.take e = .next t) : t.memSize = s.memSize := by
  cases e with
  | read off size =>
    cases ht
    obtain ⟨r, hr⟩ := s.hostRead_eq_respond off size
    rw [hr]; rfl
  | write off size v => cases ht; exact s.hostWrite_memSize off size v
  | sequencer =>
    have hturn : s.sequencerTurn = .next t := ht
    rcases s.sequencerTurn_cases with ⟨-, hs⟩ | ⟨-, -, hs⟩ | ⟨i, u, -, -, hs, -, hends⟩ <;>
      rw [hturn] at hs <;> cases hs
    · rfl
    · rfl
    · obtain ⟨-, hsize, -⟩ := hends.keeps
      exact hsize
  | reset cells w => cases ht; rfl

end

/-! #### The statements -/

/-- Settles O9: a step takes one entry of the agenda, which the invariant does not look at, and taking an entry of
each kind keeps it. -/
theorem everyStepKeepsTheInvariant : Obligations.EveryStepKeepsTheInvariant := by
  intro s t hinv hstep
  rw [step_eq_take] at hstep
  have hsize := State.take_memSize hstep
  exact ⟨(hinv.withAgenda _).take hstep, hsize⟩

/-- Settles O10: no byte of MEM is listed, no flag is set and no result stands. -/
theorem resetSatisfiesTheInvariant : Obligations.ResetSatisfiesTheInvariant :=
  ⟨by decide, State.reset_mem_wf, by simp [State.reset], Nat.zero_le _, by simp [State.reset], by simp [State.reset],
    by simp [State.reset]⟩

end Sys2Proof.Machine

namespace Sys2Proof.Machine

/-! ### What a completion writes (40_lifecycle.md R114, R118; 60_exceptions.md R246, R250, R251, R253) -/

/-! #### STATUS and CTRL as words -/

/-- The four flags of STATUS, bit by bit (10_state.md R32). -/
theorem Status.toWord_flags (st : Status) :
    st.toWord.getLsbD 0 = st.busy ∧ st.toWord.getLsbD 1 = st.done ∧ st.toWord.getLsbD 2 = st.matched ∧
    st.toWord.getLsbD 3 = st.lockErr := by
  simp only [Status.toWord, BitVec.getLsbD_append, BitVec.getLsbD_ofBool]
  simp

/-- The fields of STATUS above the flags: reserved, ERR, reserved (10_state.md R32). -/
theorem Status.toWord_fields (st : Status) :
    st.toWord.extractLsb' 4 4 = 0#4 ∧ st.toWord.extractLsb' 8 4 = st.errCode ∧ st.toWord.extractLsb' 12 20 = 0#20 := by
  have low : ∀ {v w : Nat} (x : BitVec v) (b : BitVec w), (x ++ b).extractLsb' 0 w = b := fun x b =>
    BitVec.extractLsb'_append_eq_right
  have high : ∀ {v w : Nat} (x : BitVec v) (b : BitVec w) (i n : Nat),
      (x ++ b).extractLsb' (i + w) n = x.extractLsb' i n := fun {_ w} x b i n => by
    simpa using BitVec.extractLsb'_append_eq_of_le (xhi := x) (xlo := b) (start := i + w) (len := n) (by omega)
  have flags : ∀ (i n : Nat), st.toWord.extractLsb' (i + 4) n = (0#20 ++ st.errCode ++ 0#4).extractLsb' i n := fun i n =>
    (high _ (BitVec.ofBool st.busy) (i + 3) n).trans ((high _ (BitVec.ofBool st.done) (i + 2) n).trans
      ((high _ (BitVec.ofBool st.matched) (i + 1) n).trans (high _ (BitVec.ofBool st.lockErr) i n)))
  exact ⟨(flags 0 4).trans (low _ _), (flags 4 4).trans ((high _ _ 0 4).trans (low _ _)),
    (flags 8 20).trans ((high _ _ 4 20).trans ((high _ _ 0 20).trans BitVec.extractLsb'_eq_self))⟩

/-- CTRL shows its enable bit (10_state.md R33). -/
theorem Ctrl.toWord_getLsbD (c : Ctrl) : c.toWord.getLsbD 0 = c.ie := by
  simp only [Ctrl.toWord, BitVec.getLsbD_append, BitVec.getLsbD_ofBool]
  simp
section
variable {i : Instr} {s t : State}

/-! #### Errors -/

/-- The completion of a word that is no command, at each moment it can come (46_system.md R186). -/
theorem step_of_illegalTurn (h : s.IllegalTurn) :
    step s = .next (State.errorCompletion { s with agenda := s.agenda.tail } .illegalCommand) := by
  obtain ⟨hbusy, hword, hnil | hnext⟩ := h
  · have hsame : { s with agenda := s.agenda.tail } = s := by rw [hnil, List.tail_nil, ← hnil]
    rw [hsame, step_nil_of_illegal hnil hbusy hword]
  · exact step_sequencer_of_illegal hnext hbusy hword

/-- An error has no result, from a state as issue leaves it. -/
theorem CommandEnds.noResult_of_err {e : ErrorKind} (h : CommandEnds i s t) (herr : t.status.err = some e)
    (hissued : s.JustIssued) :
    t.status.matched = false ∧ t.dstLen = 0#32 ∧ t.tago = Vector.replicate 8 0#8 := by
  rw [h.eq_of_err herr]
  exact noResult_of_failed (e := e) rfl rfl rfl hissued

/-! #### Inputs and MEM -/

/-- No command but WIPE changes an operand register. -/
theorem CommandEnds.keepsOperands (h : CommandEnds i s t) (hi : i ≠ .wipe) :
    t.ckey = s.ckey ∧ t.mkey = s.mkey ∧ t.iv = s.iv ∧ t.tagi = s.tagi ∧
    t.ckeyLen = s.ckeyLen ∧ t.mkeyLen = s.mkeyLen ∧ t.ivLen = s.ivLen ∧ t.tagiLen = s.tagiLen ∧
    t.srcAddr = s.srcAddr ∧ t.srcLen = s.srcLen ∧ t.dstAddr = s.dstAddr := by
  cases h with
  | wiped hwipe => exact absurd hwipe hi
  | _ => simp

/-- MEM is as before, or changed by one output byte string, of a command that has one, whose length is in DST_LEN. -/
theorem CommandEnds.mem_cases (h : CommandEnds i s t) (hi : i ≠ .wipe) :
    t.mem = s.mem ∨ ∃ out, t.mem = Memory.writeN s.mem s.dstAddr.toNat out ∧ t.dstLen.toNat = out.length ∧
      outMax i s.srcLen.toNat ≠ none := by
  cases h with
  | wiped hwipe => exact absurd hwipe hi
  | output eff out _ hr _ hout _ hfit =>
    refine .inr ⟨out, rfl, ?_, fun hnone => ?_⟩
    · have := s.memSize.isLt
      rw [BitVec.toNat_ofNat]
      exact Nat.mod_eq_of_lt (by omega)
    · rw [(bodyOf_allowed hr).noOut hnone] at hout
      cases hout
  | _ => exact .inl rfl

/-! #### The host's view (60_exceptions.md R253) -/

/-- STATUS is the one register that shows STATUS. -/
theorem State.readReg_withStatus (s : State) (st : Status) {r : Reg} (hr : r ≠ .status) :
    State.readReg { s with status := st } r = s.readReg r := by
  cases r with
  | status => exact absurd rfl hr
  | _ => rfl

/-- The view holds no hidden record. -/
theorem State.hostView_withRecords (s : State) (trace : List Phase) (work : Work) :
    State.hostView { s with trace := trace, work := work } = s.hostView := rfl

/-- Every register of the map reads alike in like views. -/
theorem readReg_eq_of_hostView_eq (h : t.hostView = s.hostView) {off : Nat} {r : Reg} (hr : (off, r) ∈ regMap) :
    t.readReg r = s.readReg r := by
  have hregs : regMap.map (fun entry => t.readReg entry.2) = regMap.map (fun entry => s.readReg entry.2) :=
    congrArg HostView.regs h
  exact List.map_inj_left.1 hregs _ hr

/-- What an error completion makes of the view depends on the view: of STATUS only MATCH and LOCKERR stay, and both are
in the view. -/
theorem hostView_errorCompletion_congr (h : t.hostView = s.hostView) (e : ErrorKind) :
    (t.errorCompletion e).hostView = (s.errorCompletion e).hostView := by
  have hstatus : t.status.toWord = s.status.toWord :=
    readReg_eq_of_hostView_eq (off := 0x08) (r := .status) h (by decide)
  have hctrl : t.ctrl.toWord = s.ctrl.toWord := readReg_eq_of_hostView_eq (off := 0x0C) (r := .ctrl) h (by decide)
  obtain ⟨-, -, htmatched, htlock⟩ := t.status.toWord_flags
  obtain ⟨-, -, hsmatched, hslock⟩ := s.status.toWord_flags
  have hmatched : t.status.matched = s.status.matched := by rw [← htmatched, hstatus, hsmatched]
  have hlock : t.status.lockErr = s.status.lockErr := by rw [← htlock, hstatus, hslock]
  have hie : t.ctrl.ie = s.ctrl.ie := by rw [← Ctrl.toWord_getLsbD, hctrl, Ctrl.toWord_getLsbD]
  have hfailed : t.status.failed e = s.status.failed e := by rw [Status.failed, Status.failed, hmatched, hlock]
  have hwindow : Memory.readN t.mem 0 t.memBytes = Memory.readN s.mem 0 s.memBytes := congrArg HostView.window h
  have hregs : regMap.map (fun entry => (t.errorCompletion e).readReg entry.2) =
      regMap.map (fun entry => (s.errorCompletion e).readReg entry.2) := by
    refine List.map_inj_left.2 fun ⟨off, r⟩ hr => ?_
    by_cases hrs : r = .status
    · subst hrs; exact congrArg Status.toWord hfailed
    · exact (t.readReg_withStatus _ hrs).trans
        ((readReg_eq_of_hostView_eq h hr).trans (s.readReg_withStatus _ hrs).symm)
  have hirq : (t.errorCompletion e).irq = (s.errorCompletion e).irq := by
    simp only [State.irq_eq, State.errorCompletion_status, State.errorCompletion_ctrl, Status.failed_done, hie]
  simp only [State.hostView, hregs, hirq]
  exact congrArg (HostView.mk _ · _) hwindow

/-- After an error the host's view is that of the error completion alone. -/
theorem CommandEnds.hostView_of_err {e : ErrorKind} (h : CommandEnds i s t) (herr : t.status.err = some e) :
    t.hostView = (s.errorCompletion e).hostView := by
  rw [h.eq_of_err herr]
  exact State.hostView_withRecords (s.errorCompletion e) _ _

/-- The word of STATUS after AuthenticationFailure, from an issue (60_exceptions.md R253). -/
theorem toWord_authenticationFailure (lockErr : Bool) :
    ({ busy := false, done := true, matched := false, lockErr := lockErr, err := some .authenticationFailure } :
      Status).toWord = if lockErr then 0x0000050A#32 else 0x00000502#32 := by
  cases lockErr <;> decide

end

/-! #### The statements -/

/-- Settles O12: of the ways a command can end, those with an error are the error completion, and so is the turn at an
illegal word. -/
theorem errorCompletionWritesOnlyStatus : Obligations.ErrorCompletionWritesOnlyStatus := by
  refine ⟨fun i s t e hexec herr => ?command, fun s hturn => ?illegal⟩
  case command =>
    have hends := exec_ends hexec
    exact ⟨hends.eq_of_err herr, hends.irq_eq, hends.noResult_of_err herr⟩
  case illegal =>
    exact ⟨_, step_of_illegalTurn hturn, rfl, rfl, noResult_of_failed rfl rfl rfl⟩

/-- Settles O13: only WIPE writes operand registers, and the commit writes the one output byte string whose length it
puts into DST_LEN. -/
theorem commandsKeepTheirInputs : Obligations.CommandsKeepTheirInputs := by
  intro i s t hi hexec
  have hends := exec_ends hexec
  obtain ⟨hckey, hmkey, hiv, htagi, hckl, hmkl, hivl, htl, hsa, hsl, hda⟩ := hends.keepsOperands hi
  obtain ⟨hctrl, hsize, hlcmd, hresp, hagenda⟩ := hends.keeps
  refine ⟨hckey, hmkey, hiv, htagi, hckl, hmkl, hivl, htl, hsa, hsl, hda, hctrl, hsize, hlcmd, hresp, hagenda,
    fun a ha => ?_, fun hnone => ?_⟩
  · rcases hends.mem_cases hi with hmem | ⟨out, hmem, hlen, -⟩
    · rw [hmem]
    · rw [hmem, Memory.read_writeN_outside (hlen ▸ ha)]
  · rcases hends.mem_cases hi with hmem | ⟨_, -, -, hout⟩
    · exact hmem
    · exact absurd hnone hout

/-- Settles O17: every way a command can end sets DONE; the register writes and the reset are steps of their own. -/
theorem completionSetsDoneAndRaisesIrq : Obligations.CompletionSetsDoneAndRaisesIrq := by
  refine ⟨fun i s t hexec => ?_, fun s => ?_, fun s v rest =>
    ⟨fun hidle h => ?issue, fun hidle h => ?acknowledge, fun hidle h => ?enable, fun cells h => ?reset⟩⟩
  · have hends := exec_ends hexec
    obtain ⟨hbusy, hdone, hlock⟩ := hends.completes
    exact ⟨hbusy, hdone, hlock, hends.irq_eq⟩
  · rw [s.irq_eq, Bool.and_eq_true]
  case issue => exact ⟨_, step_write_register h hidle (r := .cmd) rfl, rfl⟩
  case acknowledge =>
    refine ⟨_, step_write_register h hidle (r := .status) rfl, ?_⟩
    simp [State.irq_eq, State.writeReg, Bool.and_right_comm]
  case enable => exact ⟨_, step_write_register h hidle (r := .ctrl) rfl, rfl⟩
  case reset => exact ⟨_, step_reset h, rfl⟩

/-- Settles O58: the error completion changes STATUS alone of what the host can read, and to a value that is the same
for like views. -/
theorem openFailuresLookAlike : Obligations.OpenFailuresLookAlike := by
  intro scope s1 t1 hexec1 herr1
  have hends1 := exec_ends hexec1
  have hview1 := hends1.hostView_of_err herr1
  refine ⟨hview1, fun hissued => ?_, fun s2 t2 _ hsame hexec2 herr2 => ?_⟩
  · refine ⟨?_, (hends1.noResult_of_err herr1 hissued).2⟩
    have hstatus : t1.status = s1.status.failed .authenticationFailure := by rw [hends1.eq_of_err herr1]
    rw [← toWord_authenticationFailure, hstatus, hissued.1]
    rfl
  · rw [(exec_ends hexec2).hostView_of_err herr2, hview1, hostView_errorCompletion_congr hsame]

/-- Settles O29: a CTRL write stores `Ctrl.ofWord`, and every way a command can end keeps CTRL. -/
theorem ctrlKeepsOnlyItsEnableBit : Obligations.CtrlKeepsOnlyItsEnableBit := by
  refine ⟨fun s v rest hidle h => step_write_register h hidle (r := .ctrl) rfl, fun c => ?_,
    fun i s t hexec => (exec_ends hexec).keeps.1⟩
  obtain ⟨ie⟩ := c
  cases ie <;> decide

end Sys2Proof.Machine

namespace Sys2Proof.Machine

/-! ### What the host reads and writes (10_state.md R26 to R34, R41 to R43; 20_memory.md R62 to R71) -/

section
variable {s t : State} {rest : List Event}

/-! #### Reads (R62, R67, R68) -/

/-- A read that reaches something is answered with a value. -/
theorem step_read_inOrder {off size : Nat} (h : s.agenda = .read off size :: rest)
    (hacc : AccessInOrder s.memSize.toNat off size) :
    ∃ v, step s = .next { s with agenda := rest, resp := .data v } := by
  obtain ⟨target, hreach⟩ := Option.isSome_iff_exists.1 ((resolve_isSome_iff s.memSize.toNat off size).2 hacc)
  rw [step_read h]
  rcases State.hostRead_cases { s with agenda := rest } off size with ⟨hnone, -⟩ | ⟨r, -, hr⟩ | ⟨a, -, ha⟩
  · exact absurd (hreach.symm.trans hnone) (by simp)
  · exact ⟨_, congrArg _ hr⟩
  · exact ⟨_, congrArg _ ha⟩

/-- The words of the two key files, by offset: 0x40 to 0x7C. -/
theorem regMap_lookup_key {off : Nat} (hlow : 0x40 ≤ off) (hhigh : off < 0x80) (halign : off % 4 = 0) :
    ∃ k, regMap.lookup off = some (.ckeyW k) ∨ regMap.lookup off = some (.mkeyW k) := by
  by_cases hfile : off < 0x60
  · obtain ⟨k, rfl⟩ : ∃ k, off = 0x40 + 4 * k := ⟨(off - 0x40) / 4, by omega⟩
    exact ⟨k, .inl (regMap_lookup_ckeyW k (by omega))⟩
  · obtain ⟨k, rfl⟩ : ∃ k, off = 0x60 + 4 * k := ⟨(off - 0x60) / 4, by omega⟩
    exact ⟨k, .inr (regMap_lookup_mkeyW k (by omega))⟩

/-- The keys are never read back (R68). -/
theorem step_read_key {off : Nat} (h : s.agenda = .read off 4 :: rest) (hlow : 0x40 ≤ off) (hhigh : off < 0x80)
    (halign : off % 4 = 0) : step s = .next { s with agenda := rest, resp := .data 0#32 } := by
  obtain ⟨k, hk | hk⟩ := regMap_lookup_key hlow hhigh halign
  · exact step_read_register h hk
  · exact step_read_register h hk

/-- The map names each register once. -/
theorem regMap_lookup_of_mem : ∀ entry ∈ regMap, regMap.lookup entry.1 = some entry.2 := by
  decide

/-- The first thirteen registers of the map, 0x00 to 0x30, are the 32-bit registers that are no word of a file. -/
theorem step_read_scalar {off : Nat} {v : Word} (h : s.agenda = .read off 4 :: rest)
    (hv : (off, v) ∈ (regMap.take 13).map fun entry => (entry.1, s.readReg entry.2)) :
    step s = .next { s with agenda := rest, resp := .data v } := by
  obtain ⟨entry, hentry, hoff⟩ := List.mem_map.1 hv
  cases hoff
  exact step_read_register h (regMap_lookup_of_mem entry (List.mem_of_mem_take hentry))

/-! #### The hidden part of the state (R41 to R43, R68) -/

/-- The other state is the one with a hidden part of its own. -/
theorem SameButHidden.exists_eq (h : SameButHidden s t) : ∃ ckey mkey lcmd work trace,
    t = { s with ckey := ckey, mkey := mkey, lcmd := lcmd, work := work, trace := trace } :=
  ⟨_, _, _, _, _, h⟩

theorem SameButHidden.withAgenda (h : SameButHidden s t) (rest : List Event) :
    SameButHidden { s with agenda := rest } { t with agenda := rest } := by
  obtain ⟨_, _, _, _, _, rfl⟩ := h.exists_eq
  rfl

theorem SameButHidden.respond (h : SameButHidden s t) (r : BusResponse) :
    SameButHidden (s.respond r) (t.respond r) := by
  obtain ⟨_, _, _, _, _, rfl⟩ := h.exists_eq
  rfl

theorem SameButHidden.locked (h : SameButHidden s t) :
    SameButHidden { s with status := s.status.locked } { t with status := t.status.locked } := by
  obtain ⟨_, _, _, _, _, rfl⟩ := h.exists_eq
  rfl

/-- No register shows the hidden part. -/
theorem SameButHidden.readReg (h : SameButHidden s t) (r : Reg) : t.readReg r = s.readReg r := by
  obtain ⟨_, _, _, _, _, rfl⟩ := h.exists_eq
  cases r <;> rfl

/-- A register write stores the value, whatever the hidden part; an issue and the key words write into that part. -/
theorem SameButHidden.writeReg (h : SameButHidden s t) (r : Reg) (v : Word) :
    SameButHidden (s.writeReg r v) (t.writeReg r v) := by
  obtain ⟨_, _, _, _, _, rfl⟩ := h.exists_eq
  cases r <;> rfl

theorem SameButHidden.writeTarget (h : SameButHidden s t) (target : Target) (size : Nat) (v : Word) :
    SameButHidden (s.writeTarget target size v) (t.writeTarget target size v) := by
  cases target with
  | reg r => exact h.writeReg r v
  | mem a =>
    obtain ⟨_, _, _, _, _, rfl⟩ := h.exists_eq
    rfl

theorem SameButHidden.hostRead (h : SameButHidden s t) (off size : Nat) :
    SameButHidden (s.hostRead off size) (t.hostRead off size) := by
  have hsize : t.memBytes = s.memBytes := by rw [h]; rfl
  have hmem : t.mem = s.mem := by rw [h]
  rw [State.hostRead, State.hostRead, hsize]
  cases resolve s.memBytes off size with
  | none => exact h.respond _
  | some target =>
    cases target with
    | reg r => simp only [h.readReg r]; exact h.respond _
    | mem a => simp only [State.readWindow, hmem]; exact h.respond _

theorem SameButHidden.hostWrite (h : SameButHidden s t) (off size : Nat) (v : Word) :
    SameButHidden (s.hostWrite off size v) (t.hostWrite off size v) := by
  have hsize : t.memBytes = s.memBytes := by rw [h]; rfl
  have hbusy : t.status.busy = s.status.busy := by rw [h]
  rw [State.hostWrite, State.hostWrite, hsize, hbusy]
  cases resolve s.memBytes off size with
  | none => exact h.respond _
  | some target =>
    cases s.status.busy with
    | true => exact h.locked.respond _
    | false => exact (h.writeTarget target size v).respond _

end

/-! #### Reset (70_reset_and_hazards.md R282) -/

/-- Reading after a write that only takes place inside MEM. -/
theorem Memory.read_writeWithin (m : Memory) (n a b : Nat) (v : Byte) :
    Memory.read (if a < n then Memory.write m a v else m) b = if b = a ∧ b < n then v else Memory.read m b := by
  by_cases ha : a < n
  · rw [if_pos ha, Memory.read_write]
    by_cases hb : b = a <;> simp [hb, ha]
  · rw [if_neg ha, if_neg fun h : b = a ∧ b < n => ha (h.1 ▸ h.2)]

/-- A memory loaded from a list of addresses, each with its byte of `contents`, reads those bytes there. -/
theorem Memory.read_load {n : Nat} (contents : Nat → Byte) {addresses : List Nat} {b : Nat} (hb : b ∈ addresses)
    (hn : b < n) : Memory.read (Memory.load n (addresses.map fun a => (a, contents a))) b = contents b := by
  suffices h : ∀ m : Memory, Memory.read ((addresses.map fun a => (a, contents a)).foldl
      (fun m c => if c.1 < n then Memory.write m c.1 c.2 else m) m) b =
      if b ∈ addresses then contents b else Memory.read m b from (h []).trans (if_pos hb)
  clear hb
  induction addresses with
  | nil => exact fun m => rfl
  | cons a addresses ih =>
    intro m
    rw [List.map_cons, List.foldl_cons, ih, Memory.read_writeWithin]
    by_cases hlater : b ∈ addresses
    · rw [if_pos hlater, if_pos (List.mem_cons_of_mem _ hlater)]
    · rw [if_neg hlater]
      by_cases hhere : b = a
      · rw [if_pos ⟨hhere, hn⟩, if_pos (hhere ▸ List.mem_cons_self), hhere]
      · rw [if_neg fun h => hhere h.1, if_neg (by simp [hhere, hlater])]

/-! #### The statements -/

/-- Settles O21: an access in order reaches a register or MEM, and the answer is all a read changes. -/
theorem readsHaveNoSideEffect : Obligations.ReadsHaveNoSideEffect :=
  fun _ _ _ _ h hacc => step_read_inOrder h hacc

/-- Settles O24: each offset has its register in the map, and the register its value. -/
theorem registerReadsAnswer : Obligations.RegisterReadsAnswer := by
  rintro s off rest h v (hlisted | ⟨hlow, hhigh, halign, rfl⟩ | ⟨k, hk, rfl, rfl⟩ | ⟨k, hk, rfl, rfl⟩ | ⟨k, hk, rfl, rfl⟩)
  · exact step_read_scalar h hlisted
  · exact step_read_key h hlow hhigh halign
  · exact step_read_register h (regMap_lookup_ivW k hk)
  · exact step_read_register h (regMap_lookup_tagiW k hk)
  · exact step_read_register h (regMap_lookup_tagoW k hk)

/-- Settles O25: a host transaction on two states that differ in the hidden part alone reaches the same target, and
neither the answer nor what a write stores depends on that part. -/
theorem hostNeverSeesHiddenState : Obligations.HostNeverSeesHiddenState := by
  intro s1 s2 t1 t2 e hsame hagenda hhost hreset hstep1 hstep2
  have hagenda2 : s2.agenda = e :: s1.agenda.tail := by rw [hsame]; exact hagenda
  rw [step_eq_take, hagenda] at hstep1
  rw [step_eq_take, hagenda2] at hstep2
  have hrest := hsame.withAgenda s1.agenda.tail
  cases e with
  | read off size => cases hstep1; cases hstep2; exact hrest.hostRead off size
  | write off size v => cases hstep1; cases hstep2; exact hrest.hostWrite off size v
  | sequencer => exact absurd rfl hhost
  | reset cells w => cases hreset

/-- Settles O31: a reset does not look at the state; the contents asked for are listed in the entry, address by
address. -/
theorem resetLeavesMemOpen : Obligations.ResetLeavesMemOpen := by
  intro s rest
  refine ⟨fun cells w h => ⟨_, step_reset h⟩, fun contents w =>
    ⟨(List.range s.memSize.toNat).map fun a => (a, contents a), _, step_reset rfl, rfl, fun a ha => ?_⟩⟩
  exact Memory.read_load contents (List.mem_range.2 ha) ha

/-- Settles O27: each offset has its register in the map, and the register stores the value. -/
theorem lengthAndDescriptorRegistersStoreAnyValue : Obligations.LengthAndDescriptorRegistersStoreAnyValue := by
  intro s off v rest hidle h
  refine ⟨?srcAddr, ?srcLen, ?dstAddr, ?ckeyLen, ?mkeyLen, ?ivLen, ?tagiLen⟩ <;> rintro rfl
  case srcAddr => exact step_write_register h hidle (r := .srcAddr) rfl
  case srcLen => exact step_write_register h hidle (r := .srcLen) rfl
  case dstAddr => exact step_write_register h hidle (r := .dstAddr) rfl
  case ckeyLen => exact step_write_register h hidle (r := .ckeyLen) rfl
  case mkeyLen => exact step_write_register h hidle (r := .mkeyLen) rfl
  case ivLen => exact step_write_register h hidle (r := .ivLen) rfl
  case tagiLen => exact step_write_register h hidle (r := .tagiLen) rfl

/-- Settles O28: the layout is that of the concatenation of the fields; a STATUS write is the acknowledgement. -/
theorem statusLayoutAndWriteOneToClear : Obligations.StatusLayoutAndWriteOneToClear := by
  refine ⟨fun st => ?layout, fun s v rest hidle h => ?clear⟩
  case layout =>
    obtain ⟨hbusy, hdone, hmatched, hlock⟩ := st.toWord_flags
    obtain ⟨hlow, herr, hhigh⟩ := st.toWord_fields
    have hcode : ∀ e, st.err = e → st.toWord.extractLsb' 8 4 = Status.errCode { st with err := e } :=
      fun e he => by rw [herr, ← he]
    exact ⟨hbusy, hdone, hmatched, hlock, hlow, hhigh, hcode _, hcode _, hcode _, hcode _, hcode _, hcode _, hcode _,
      hcode _⟩
  case clear =>
    have hclear : ∀ flag bit : Bool, (flag && !bit) = if bit then false else flag := by decide
    rw [step_write_register h hidle (r := .status) rfl]
    simp only [State.writeReg, State.acknowledge, Status.acknowledged, hclear]

/-- Settles O32: the fields of State.reset are read off. -/
theorem resetStateAsTheSpecSays : Obligations.ResetStateAsTheSpecSays := by
  unfold Obligations.ResetStateAsTheSpecSays
  decide

end Sys2Proof.Machine

namespace Sys2Proof

/-! ### Well-formed fields (30_encoding.md R90, R93) -/

/-- The rows of the table of R92. -/
def commandTable : List Instr :=
  [.validate, .pad, .unpad, .encrypt, .decrypt, .mac, .verify, .sealCt, .sealIvct, .sealPt, .openCt, .openIvct, .openPt,
   .wipe]

/-- Each of the 64 pairs of OP and SCOPE that passes the checks is a row of the table. -/
theorem exists_mem_commandTable_of_wellFormed : ∀ (op : BitVec 4) (scope : BitVec 2),
    CommandFields.wellFormed { op := op, scope := scope, zero := 0#26 } = true →
    ∃ i ∈ commandTable, i.opNumber = op ∧ i.scopeNumber = scope := by
  decide

theorem exists_fields_eq_of_wellFormed {f : CommandFields} (h : f.wellFormed = true) : ∃ i : Instr, f = i.fields := by
  obtain ⟨op, scope, zero⟩ := f
  have hzero : zero = 0#26 := by
    simp only [CommandFields.wellFormed, CommandFields.zeroOk, Bool.and_eq_true, beq_iff_eq] at h
    obtain ⟨⟨hzero, -⟩, -⟩ := h
    exact hzero
  subst hzero
  obtain ⟨i, -, rfl, rfl⟩ := exists_mem_commandTable_of_wellFormed op scope h
  exact ⟨i, rfl⟩

/-- Settles O3: a word is decoded by its fields, and the fields of a command pass the checks. -/
theorem wellFormedFieldsAreTheCommands : Obligations.WellFormedFieldsAreTheCommands := by
  intro w
  refine ⟨fun h => ?_, fun ⟨i, hi⟩ => ?_⟩
  · obtain ⟨i, hi⟩ := exists_fields_eq_of_wellFormed h
    exact ⟨i, (decode_eq_ok_iff w i).2 (eq_encode_of_fieldsOf hi)⟩
  · rw [fieldsOf_of_decode hi]
    cases i <;> decide

/-- Settles O2: the decoder is run on the nine words. -/
theorem writtenOutWordsDecode : Obligations.WrittenOutWordsDecode := by
  unfold Obligations.WrittenOutWordsDecode
  decide

end Sys2Proof

namespace Sys2Proof.Machine

/-! ### Memory as data (10_state.md R36; 00_scope.md, section 5) -/

theorem Memory.readN_writeN (m : Memory) (a : Nat) (l : List Byte) :
    Memory.readN (Memory.writeN m a l) a l.length = l := by
  apply List.ext_getElem
  · rw [Memory.readN_length]
  · intro k hread hk
    rw [← List.getD_eq_getElem _ 0#8 hread, Memory.readN_getD hk, Memory.read_writeN_inside hk,
      List.getD_eq_getElem _ _ hk]

/-- In canonical form a listed entry is what its address reads as. -/
theorem Memory.read_of_mem {m : Memory} (h : Memory.wf m) {c : Host.Cell} (hc : c ∈ m) : Memory.read m c.1 = c.2 := by
  obtain ⟨hsorted, hvalues⟩ := h
  induction m with
  | nil => cases hc
  | cons d m ih =>
    obtain ⟨hfirst, hsorted⟩ := List.pairwise_cons.1 hsorted
    rw [Memory.read_cons]
    rcases List.mem_cons.1 hc with rfl | hc
    · exact if_pos rfl
    · have hlt : d.1 < c.1 := hfirst c hc
      rw [if_neg (by omega), ih hc hsorted fun e he => hvalues e (List.mem_cons_of_mem _ he)]

/-- In canonical form the entries are the addresses that do not read as 0, with what they read as. -/
theorem Memory.mem_iff_read {m : Memory} (h : Memory.wf m) (c : Host.Cell) :
    c ∈ m ↔ Memory.read m c.1 = c.2 ∧ c.2 ≠ 0#8 := by
  refine ⟨fun hc => ⟨Memory.read_of_mem h hc, h.2 c hc⟩, fun ⟨hread, hvalue⟩ => ?_⟩
  by_contra hmissing
  have hlisted : ∃ d ∈ m, d.1 = c.1 := by
    by_contra hnone
    exact hvalue (hread ▸ Memory.read_of_unlisted fun d hd hdc => hnone ⟨d, hd, hdc⟩)
  obtain ⟨d, hd, hdc⟩ := hlisted
  have hdread := Memory.read_of_mem h hd
  rw [hdc, hread] at hdread
  exact hmissing (Prod.ext hdc hdread.symm ▸ hd)

/-- Canonical memories that read alike are the same list: they have the same entries, in the same order. -/
theorem Memory.eq_of_read_eq {m1 m2 : Memory} (h1 : Memory.wf m1) (h2 : Memory.wf m2)
    (hread : ∀ a, Memory.read m1 a = Memory.read m2 a) : m1 = m2 := by
  have hnodup : ∀ m : Memory, Memory.wf m → m.Nodup := fun m h =>
    h.1.imp fun hlt heq => by rw [heq] at hlt; exact Nat.lt_irrefl _ hlt
  have hentries : ∀ c, c ∈ m1 ↔ c ∈ m2 := fun c => by
    rw [Memory.mem_iff_read h1, Memory.mem_iff_read h2, hread]
  have hperm : m1.Perm m2 := (List.perm_ext_iff_of_nodup (hnodup m1 h1) (hnodup m2 h2)).2 hentries
  exact hperm.eq_of_pairwise (fun c d _ _ hcd hdc => absurd hcd (Nat.lt_asymm hdc)) h1.1 h2.1

/-- Settles O33: reading undoes writing byte by byte; the entries of a canonical memory are determined by its reads. -/
theorem memoryIsItsContents : Obligations.MemoryIsItsContents :=
  ⟨fun m a l => ⟨Memory.readN_writeN m a l, fun _ hb => Memory.read_writeN_outside hb⟩, fun _ _ => Memory.eq_of_read_eq⟩

end Sys2Proof.Machine

namespace Sys2Proof.Machine

/-! ### The references of the units (42_padding.md R140; 44_mac.md R159) and the locality of CBC (43_cbc.md R151) -/

/-! #### The padding scan -/

/-- The scan has gathered a fault exactly where one of its steps saw one. -/
theorem scanPadding_eq_true_iff (d : List Byte) (p : Nat) (is : List Nat) (bad : Bool) :
    scanPadding d p is bad = true ↔
      bad = true ∨ ∃ i ∈ is, i ≤ p ∧ (d.getD (d.length - i) 0#8).toNat ≠ p := by
  induction is generalizing bad with
  | nil => simp [scanPadding]
  | cons i is ih => simp [scanPadding, ih, or_assoc]

/-- The scan visits the last 16 positions, counted from the end. -/
theorem paddingScanFails_iff (d : List Byte) {p : Nat} (hp : p = (d.getD (d.length - 1) 0#8).toNat) :
    paddingScanFails d = true ↔
      (p = 0 ∨ p > 16) ∨ ∃ i, 1 ≤ i ∧ i ≤ 16 ∧ i ≤ p ∧ (d.getD (d.length - i) 0#8).toNat ≠ p := by
  have hvisited : ∀ i, i ∈ [1, 2, 3, 4, 5, 6, 7, 8, 9, 10, 11, 12, 13, 14, 15, 16] ↔ 1 ≤ i ∧ i ≤ 16 := fun i => by
    simp only [List.mem_cons, List.not_mem_nil, or_false]; omega
  simp only [paddingScanFails, ← hp, scanPadding_eq_true_iff, hvisited, Bool.or_eq_true, beq_iff_eq,
    decide_eq_true_iff, and_assoc]

/-- On whole blocks `Unpad` fails exactly on a last byte that is no pad count or a byte of the padding that is not
the pad count (R136). -/
theorem unpad_eq_none_iff {d : List Byte} {p : Nat} (hne : d.length ≠ 0) (hblocks : d.length % 16 = 0)
    (hp : p = (d.getD (d.length - 1) 0#8).toNat) :
    unpad d = none ↔
      (p = 0 ∨ p > 16) ∨ ∃ i, d.length - p ≤ i ∧ i < d.length ∧ (d.getD i 0#8).toNat ≠ p := by
  have hsome : (∃ x, unpad d = some x) ↔
      (1 ≤ p ∧ p ≤ 16) ∧ ∀ i, d.length - p ≤ i → i < d.length → (d.getD i 0#8).toNat = p := by
    simp only [unpad_eq_some_iff, exists_eq_left, ← hp]
    exact ⟨fun ⟨_, _, _, hlow, hhigh, hall, _⟩ => ⟨⟨hlow, hhigh⟩, hall⟩,
      fun ⟨⟨hlow, hhigh⟩, hall⟩ => ⟨_, hne, hblocks, hlow, hhigh, hall, rfl⟩⟩
  rw [Option.eq_none_iff_forall_ne_some, ← not_exists, hsome, not_and_or]
  refine or_congr (by omega) ?_
  simp only [not_forall, exists_prop]

/-- Settles O35: position `i` from the end is position `length - i`, so both tests look at the same bytes. -/
theorem paddingScanAgreesWithUnpad : Obligations.PaddingScanAgreesWithUnpad := by
  intro d hlen hblocks
  rw [paddingScanFails_iff d rfl, unpad_eq_none_iff (by omega) hblocks rfl]
  generalize (d.getD (d.length - 1) 0#8).toNat = p
  by_cases hrange : p = 0 ∨ p > 16
  · simp only [hrange, true_or]
  refine or_congr_right ⟨?_, ?_⟩
  · rintro ⟨i, hlow, -, hip, hbyte⟩
    exact ⟨d.length - i, by omega, by omega, hbyte⟩
  · rintro ⟨i, hfrom, hlt, hbyte⟩
    exact ⟨d.length - i, by omega, by omega, by omega, by rwa [show d.length - (d.length - i) = i by omega]⟩

/-! #### The comparison of tags -/

/-- The accumulator is 0 exactly where it was 0 and the strings agree. -/
theorem ctAccumulate_eq_zero_iff {a b : List Byte} (hlen : a.length = b.length) (acc : Byte) :
    ctAccumulate a b acc = 0#8 ↔ acc = 0#8 ∧ a = b := by
  induction a generalizing b acc with
  | nil =>
    obtain rfl := List.length_eq_zero_iff.1 hlen.symm
    simp [ctAccumulate]
  | cons x a ih =>
    obtain ⟨y, b, rfl⟩ := List.exists_cons_of_length_eq_add_one hlen.symm
    rw [ctAccumulate, ih (by simpa using hlen), BitVec.or_eq_zero_iff, BitVec.xor_eq_zero_iff, List.cons.injEq, and_assoc]

/-- Settles O36: equality of lists of length 8 is equality at 8 positions; the accumulator keeps every difference. -/
theorem constantTimeComparisonIsEquality : Obligations.ConstantTimeComparisonIsEquality := by
  intro a b ha hb
  have hequal : ctEq8 a b = true ↔ a = b := beq_iff_eq
  refine ⟨hequal.trans ⟨fun h i _ => by rw [h], fun h => List.ext_getElem (ha.trans hb.symm) fun i hi hi' => ?_⟩, ?_⟩
  · simpa [hi, hi'] using h i (by omega)
  · rw [hequal, ctAccumulate_eq_zero_iff (ha.trans hb.symm), and_iff_right rfl]

/-! #### Changed blocks -/

theorem xorBytes_assoc (a b c : List Byte) : xorBytes (xorBytes a b) c = xorBytes a (xorBytes b c) := by
  apply List.ext_getElem
  · simp [min_assoc]
  · intro i _ _
    simp [xorBytes, BitVec.xor_assoc]

/-- Settles O43: a block is exclusive-ORed with the one before it after its decryption, so a change of that one comes
through as it is, and no later block looks at it. -/
theorem cbcChangesStayLocal : Obligations.CbcChangesStayLocal := by
  intro k iv d c1 c2 rest _ hd hc1 hc2 _
  have hchanged : (xorBytes c1 d).length = 16 := by rw [xorBytes_length, hc1, hd, min_self]
  refine ⟨?_, ?_⟩
  · rw [cbcDec_append hc1, xorBytes_assoc]
  · rw [List.append_assoc, cbcDec_append hchanged, cbcDec_append hc2, xorBytes_assoc, List.append_assoc]

end Sys2Proof.Machine

namespace Sys2Proof.Machine

/-! ### SHA-256 and HMAC-SHA256 (49_prim_sha256_hmac.md R223, R229) -/

/-! #### Message padding -/

/-- The number of zeros completes the message and its 0x80 to 56 bytes in the last block, and none smaller does. -/
theorem shaZeros_eq_iff {len z : Nat} (hz : z < 64) : shaZeros len = z ↔ (len + 1 + z) % 64 = 56 := by
  unfold shaZeros
  omega

theorem shaZeros_lt (len : Nat) : shaZeros len < 64 :=
  Nat.mod_lt _ (by omega)

/-- The number a big-endian byte string is. -/
theorem beBytes_foldl (w : Word) (n : Nat) :
    (beBytes w).foldl (fun n b => 256 * n + b.toNat) n = 2 ^ 32 * n + w.toNat := by
  have := w.isLt
  simp only [beBytes, List.foldl_cons, List.foldl_nil, BitVec.extractLsb'_toNat, Nat.shiftRight_eq_div_pow]
  omega

theorem beBytes64_foldl {n : Nat} (h : n < 2 ^ 64) : (beBytes64 n).foldl (fun n b => 256 * n + b.toNat) 0 = n := by
  rw [beBytes64, List.foldl_append, beBytes_foldl, beBytes_foldl, BitVec.toNat_ofNat, BitVec.toNat_ofNat]
  omega

theorem beBytes64_length (n : Nat) : (beBytes64 n).length = 8 := rfl

/-- Settles O44: the number of zeros is the only one below 64 that completes the block, and the length field is read
back digit by digit. -/
theorem shaPaddingFillsWholeBlocks : Obligations.ShaPaddingFillsWholeBlocks := by
  intro m hm
  have hzeros : (m.length + 1 + shaZeros m.length) % 64 = 56 := (shaZeros_eq_iff (shaZeros_lt _)).1 rfl
  refine ⟨shaZeros m.length, beBytes64 (8 * m.length), rfl, hzeros, fun y hy => ?least, beBytes64_length _,
    beBytes64_foldl hm, ?blocks⟩
  case least =>
    have := shaZeros_lt m.length
    by_cases hlt : y < 64
    · exact ((shaZeros_eq_iff hlt).2 hy).le
    · omega
  case blocks =>
    simp only [padSha, List.length_append, List.length_replicate, List.length_singleton, beBytes64_length]
    omega

/-! #### Known answers -/

/-- Settles O45: the hash and HMAC are run on the thirteen rows. -/
theorem hashKnownAnswers : Obligations.HashKnownAnswers := by
  unfold Obligations.HashKnownAnswers
  decide +kernel +zetaReduce

end Sys2Proof.Machine

namespace Sys2Proof.Machine

/-! ### The run of a command (40_lifecycle.md R113, R120, R121, R123; 60_exceptions.md R241)

`runOf` is the whole outcome of `Exec`, the address check included. What a command shows when it ends is read off its
run: the error and the marks (`exec_ending`), the results (`exec_results`). -/

/-- The outcome of `Exec` (R113): the address check, then the body. -/
def runOf (i : Instr) (s : State) : CommandRun :=
  if s.addressOk i then bodyOf i s else .raise .addressError [] Work.empty

theorem runOf_of_addressOk {i : Instr} {s : State} (ha : s.addressOk i = true) : runOf i s = bodyOf i s :=
  if_pos ha

theorem runOf_of_addressOk_false {i : Instr} {s : State} (ha : s.addressOk i = false) :
    runOf i s = .raise .addressError [] Work.empty :=
  if_neg (by simp [ha])

/-- The error of a run. -/
def CommandRun.err (r : CommandRun) : Option ErrorKind :=
  match r.result with
  | .error e => some e
  | .ok _ => none

/-- The results of a run, none at all after an error. -/
def CommandRun.effects (r : CommandRun) : Effects :=
  match r.result with
  | .error _ => .report false
  | .ok eff => eff

/-- The output byte string of a run, empty where there is none. -/
def CommandRun.output (r : CommandRun) : List Byte :=
  r.effects.out.getD []

/-- How a run ends: its error and its marks (R123). -/
def CommandRun.ending (r : CommandRun) : Ending :=
  (r.err, r.phases)

@[simp] theorem ending_raise (e : ErrorKind) (phases : List Phase) (work : Work) :
    (CommandRun.raise e phases work).ending = (some e, phases) := rfl

@[simp] theorem ending_succeed (eff : Effects) (phases : List Phase) (work : Work) :
    (CommandRun.succeed eff phases work).ending = (none, phases) := rfl

section
variable {i : Instr} {s t : State}

theorem CommandRun.err_of_error {r : CommandRun} {e : ErrorKind} (h : r.result = .error e) : r.err = some e := by
  rw [CommandRun.err, h]

theorem CommandRun.err_of_ok {r : CommandRun} {eff : Effects} (h : r.result = .ok eff) : r.err = none := by
  rw [CommandRun.err, h]

theorem CommandRun.effects_of_error {r : CommandRun} {e : ErrorKind} (h : r.result = .error e) :
    r.effects = .report false := by
  rw [CommandRun.effects, h]

theorem CommandRun.effects_of_ok {r : CommandRun} {eff : Effects} (h : r.result = .ok eff) : r.effects = eff := by
  rw [CommandRun.effects, h]

/-! #### What a command shows -/

/-- A completion takes over the error of the run and appends its marks to TRACE (R121). -/
theorem exec_ending (h : exec i s = .next t) :
    t.status.err = (runOf i s).err ∧ t.trace = s.trace ++ (runOf i s).phases := by
  cases exec_ends h with
  | address ha => rw [runOf_of_addressOk_false ha]; exact ⟨rfl, (List.append_nil _).symm⟩
  | error e ha hr => rw [runOf_of_addressOk ha, CommandRun.err_of_error hr]; exact ⟨rfl, rfl⟩
  | wiped hi => subst hi; exact ⟨rfl, (List.append_nil _).symm⟩
  | report eff ha hr => rw [runOf_of_addressOk ha, CommandRun.err_of_ok hr]; exact ⟨rfl, rfl⟩
  | output eff out ha hr => rw [runOf_of_addressOk ha, CommandRun.err_of_ok hr]; exact ⟨rfl, rfl⟩

/-- From a state as issue leaves it MATCH, TAGO, DST_LEN and the output bytes are those of the run (R117). -/
theorem exec_results (hissued : s.JustIssued) (h : exec i s = .next t) :
    t.status.matched = (runOf i s).effects.matched ∧
    t.tago = (runOf i s).effects.tag.getD (Vector.replicate 8 0#8) ∧
    t.dstLen = BitVec.ofNat 32 (runOf i s).output.length ∧
    ∀ k, k < (runOf i s).output.length →
      Memory.read t.mem (s.dstAddr.toNat + k) = (runOf i s).output.getD k 0#8 := by
  obtain ⟨hstatus, hlen, htago, -⟩ := hissued
  have hmatched : s.status.matched = false := by rw [hstatus]
  cases exec_ends h with
  | address ha =>
    rw [runOf_of_addressOk_false ha]
    exact ⟨hmatched, htago, hlen, fun k hk => absurd hk (Nat.not_lt_zero k)⟩
  | error e ha hr =>
    rw [runOf_of_addressOk ha, CommandRun.output, CommandRun.effects_of_error hr]
    exact ⟨hmatched, htago, hlen, fun k hk => absurd hk (Nat.not_lt_zero k)⟩
  | wiped hi =>
    subst hi
    exact ⟨rfl, rfl, rfl, fun k hk => absurd hk (Nat.not_lt_zero k)⟩
  | report eff ha hr _ hout =>
    rw [runOf_of_addressOk ha, CommandRun.output, CommandRun.effects_of_ok hr, hout, ← htago]
    exact ⟨rfl, rfl, hlen, fun k hk => absurd hk (Nat.not_lt_zero k)⟩
  | output eff out ha hr _ hout hm =>
    rw [runOf_of_addressOk ha, CommandRun.output, CommandRun.effects_of_ok hr, hout, ← htago]
    exact ⟨hm.symm, rfl, rfl, fun k hk => Memory.read_writeN_inside hk⟩

/-! #### What a run depends on (10_state.md R29) -/

theorem SameOperands.symm {u : State} (h : SameOperands i s u) : SameOperands i u s := by
  obtain ⟨hsize, hlengths, hfiles, hdescr, hsource⟩ := h
  exact ⟨hsize.symm, hlengths.symm, hfiles.symm, hdescr.symm, hsource.symm⟩

/-- A command with a source reads its descriptor. -/
theorem SameOperands.sourceDescriptor {u : State} (h : SameOperands i s u) (hi : usesSource i = true) :
    s.srcAddr = u.srcAddr ∧ s.srcLen = u.srcLen := by
  obtain ⟨-, -, -, hdescr, -⟩ := h
  cases i with
  | validate | wipe => cases hi
  | _ =>
    obtain ⟨haddr, htail⟩ := List.cons.inj hdescr
    exact ⟨haddr, (List.cons.inj htail).1⟩

/-- A command with an output reads all three descriptors. -/
theorem SameOperands.outputDescriptor {u : State} {m n : Nat} (h : SameOperands i s u) (hi : outMax i m = some n) :
    s.srcLen = u.srcLen ∧ s.dstAddr = u.dstAddr := by
  obtain ⟨-, -, -, hdescr, -⟩ := h
  cases i with
  | validate | wipe | mac | verify => cases hi
  | _ =>
    obtain ⟨-, htail⟩ := List.cons.inj hdescr
    obtain ⟨hlen, hlast⟩ := List.cons.inj htail
    exact ⟨hlen, (List.cons.inj hlast).1⟩

/-- The address check looks at MEM_BYTES and the descriptors the command reads (R116). -/
theorem SameOperands.addressOk_of {u : State} (h : SameOperands i s u) (ha : s.addressOk i = true) :
    u.addressOk i = true := by
  obtain ⟨hsource, hroom⟩ := (s.addressOk_iff i).1 ha
  have hsize := h.1
  refine (u.addressOk_iff i).2 ⟨fun hi => ?_, fun n hn => ?_⟩
  · obtain ⟨haddr, hlen⟩ := h.sourceDescriptor hi
    rw [State.SourceInMem, ← haddr, ← hlen, ← hsize]
    exact hsource hi
  · obtain ⟨hlen, haddr⟩ := h.outputDescriptor hn
    rw [State.RoomFor, ← haddr, ← hsize]
    exact hroom n (hlen ▸ hn)

theorem SameOperands.addressOk {u : State} (h : SameOperands i s u) : s.addressOk i = u.addressOk i :=
  Bool.eq_iff_iff.2 ⟨h.addressOk_of, h.symm.addressOk_of⟩

theorem SameOperands.source {u : State} (h : SameOperands i s u) (hi : usesSource i = true) (hs : s.SourceInMem)
    (hu : u.SourceInMem) : s.source = u.source := by
  obtain ⟨-, -, -, -, hsource⟩ := h
  rwa [sourceRead, sourceRead, if_pos ⟨hi, hs⟩, if_pos ⟨hi, hu⟩] at hsource

/-- A body looks at nothing but the operands of its command. -/
theorem SameOperands.bodyOf {u : State} (h : SameOperands i s u) (hsource : usesSource i = true → s.source = u.source) :
    bodyOf i s = bodyOf i u := by
  obtain ⟨-, hlengths, hfiles, -, -⟩ := h
  cases i with
  | wipe => rfl
  | validate =>
    simp only [lengthsRead, List.cons.injEq] at hlengths
    simp only [Machine.bodyOf, hlengths]
  | pad | unpad => simp only [Machine.bodyOf, hsource rfl]
  | encrypt | decrypt | mac | verify =>
    simp only [lengthsRead, filesRead, List.cons.injEq] at hlengths hfiles
    simp only [Machine.bodyOf, hlengths, hfiles, hsource rfl]
  | sealCt | sealIvct | sealPt | openCt | openIvct | openPt =>
    simp only [lengthsRead, filesRead, List.cons.injEq] at hlengths hfiles
    simp only [Machine.bodyOf, State.envelopeParams, hlengths, hfiles, hsource rfl]

theorem SameOperands.runOf {u : State} (h : SameOperands i s u) : runOf i s = runOf i u := by
  have hcheck := h.addressOk
  cases ha : s.addressOk i with
  | false => rw [runOf_of_addressOk_false ha, runOf_of_addressOk_false (hcheck ▸ ha)]
  | true =>
    have hu : u.addressOk i = true := hcheck ▸ ha
    rw [runOf_of_addressOk ha, runOf_of_addressOk hu]
    exact h.bodyOf fun hi =>
      h.source hi (((s.addressOk_iff i).1 ha).1 hi) (((u.addressOk_iff i).1 hu).1 hi)

end

/-- Settles O14: the two commands have the same run, and a completion shows nothing but its run. -/
theorem outcomeDependsOnOperandsOnly : Obligations.OutcomeDependsOnOperandsOnly := by
  intro i s1 s2 hissued1 hissued2 hsame
  obtain ⟨t1, ht1, -⟩ := exec_next i s1
  obtain ⟨t2, ht2, -⟩ := exec_next i s2
  obtain ⟨herr1, htrace1⟩ := exec_ending ht1
  obtain ⟨herr2, htrace2⟩ := exec_ending ht2
  obtain ⟨hmatched1, htago1, hlen1, hout1⟩ := exec_results hissued1 ht1
  obtain ⟨hmatched2, htago2, hlen2, hout2⟩ := exec_results hissued2 ht2
  obtain ⟨-, -, -, hempty1, -⟩ := hissued1
  obtain ⟨-, -, -, hempty2, -⟩ := hissued2
  rw [hsame.runOf] at herr1 htrace1 hmatched1 htago1 hlen1 hout1
  refine ⟨t1, t2, ht1, ht2, by rw [herr1, herr2], by rw [hmatched1, hmatched2], by rw [htago1, htago2],
    by rw [hlen1, hlen2], by rw [htrace1, htrace2, hempty1, hempty2], fun k hk => ?_⟩
  have hk : k < (runOf i s2).output.length := by
    rw [hlen1, BitVec.toNat_ofNat] at hk
    exact hk.trans_le (Nat.mod_le _ _)
  rw [hout1 k hk, hout2 k hk]

end Sys2Proof.Machine

namespace Sys2Proof.Machine

/-! ### The endings of the commands (40_lifecycle.md R123) -/

section
variable {ckl mkl ivl tl : Word} {k iv t d pt ct : List Byte} {scope : MacScope} {o : EnvelopeParams}

/-! #### The endings of the bodies -/

theorem bodyValidate_ending : (bodyValidate ckl mkl ivl).ending ∈ endingsOf .validate (tl == 8#32) := by
  unfold bodyValidate
  split
  next hv => rcases validate_error hv with rfl | rfl <;> simp [endingsOf]
  next => simp [endingsOf]

theorem bodyUnpad_ending : (bodyUnpad d).ending ∈ endingsOf .unpad (tl == 8#32) := by
  unfold bodyUnpad
  split <;> simp [endingsOf]

theorem bodyEncrypt_ending : (bodyEncrypt ckl ivl k iv d).ending ∈ endingsOf .encrypt (tl == 8#32) := by
  unfold bodyEncrypt
  split
  next hv => rcases validateCipher_error hv with rfl | rfl <;> simp [endingsOf]
  next => split <;> simp [endingsOf]

theorem bodyDecrypt_ending : (bodyDecrypt ckl ivl k iv d).ending ∈ endingsOf .decrypt (tl == 8#32) := by
  unfold bodyDecrypt
  split
  next hv => rcases validateCipher_error hv with rfl | rfl <;> simp [endingsOf]
  next => split <;> simp [endingsOf]

theorem bodyMac_ending : (bodyMac mkl k d).ending ∈ endingsOf .mac (tl == 8#32) := by
  unfold bodyMac
  split
  next hv => rw [validateMac_error hv]; simp [endingsOf]
  next => simp [endingsOf]

theorem bodyVerify_ending : (bodyVerify mkl k t tl d).ending ∈ endingsOf .verify (tl == 8#32) := by
  unfold bodyVerify
  split
  next hv => rw [validateMac_error hv]; simp [endingsOf]
  next => by_cases htl : tl = 8#32 <;> simp [endingsOf, verifyPhases, htl]

theorem bodySeal_ending : (bodySeal scope o pt).ending ∈ endingsOf (sealOf scope) (tl == 8#32) := by
  have hendings : endingsOf (sealOf scope) (tl == 8#32) = endingsOf .sealCt (tl == 8#32) := by cases scope <;> rfl
  rw [hendings]
  unfold bodySeal
  split
  next hv => rcases validate_error hv with rfl | rfl <;> simp [endingsOf]
  next => simp [endingsOf]

/-- How a body that verifies first can end: on the lengths, on the tag, or behind a tag that has verified (R170). -/
theorem bodyOpenVerifyFirst_ending_cases (scope : MacScope) (o : EnvelopeParams) (t : List Byte) (tl : Word)
    (ct : List Byte) :
    (∃ e, (e = .invalidKeyLength ∨ e = .invalidIVLength) ∧
      (bodyOpenVerifyFirst scope o t tl ct).ending = (some e, [.v])) ∨
    (bodyOpenVerifyFirst scope o t tl ct).ending = (some .authenticationFailure, [.v] ++ verifyPhases tl) ∨
    (verify o.macKey (macInput scope o.iv ct []) t tl = true ∧
      ((bodyOpenVerifyFirst scope o t tl ct).ending = (some .invalidInputLength, [.v, .mac, .cmp]) ∨
       ∃ e, (e = some .authenticationFailure ∨ e = none) ∧
         (bodyOpenVerifyFirst scope o t tl ct).ending = (e, [.v, .mac, .cmp, .dec, .unpad]))) := by
  cases hval : validate o.ckl o.mkl o.ivl with
  | some e => exact .inl ⟨e, validate_error hval, by simp only [bodyOpenVerifyFirst, hval, ending_raise]⟩
  | none =>
    refine .inr ?_
    cases hver : verify o.macKey (macInput scope o.iv ct []) t tl with
    | false => exact .inl (by rw [bodyOpenVerifyFirst_of_mismatch hval hver, ending_raise])
    | true =>
      refine .inr ⟨rfl, ?_⟩
      by_cases hlen : ct.length % 16 = 0
      · cases hpad : unpad (cbcDec o.cipherKey o.iv ct) with
        | none =>
          exact .inr ⟨_, .inl rfl, by rw [bodyOpenVerifyFirst_of_bad_padding hval hver hlen hpad, ending_raise]⟩
        | some pt =>
          exact .inr ⟨_, .inr rfl, by rw [bodyOpenVerifyFirst_of_good hval hver hlen hpad, ending_succeed]⟩
      · exact .inl (by rw [bodyOpenVerifyFirst_of_partial_block hval hver hlen, ending_raise])

theorem bodyOpenVerifyFirst_ending : (bodyOpenVerifyFirst scope o t tl ct).ending ∈ verifyFirstEndings (tl == 8#32) := by
  rcases bodyOpenVerifyFirst_ending_cases scope o t tl ct with ⟨e, rfl | rfl, h⟩ | h | ⟨hver, h⟩
  · rw [h]; simp [verifyFirstEndings]
  · rw [h]; simp [verifyFirstEndings]
  · rw [h]
    by_cases htl : tl = 8#32 <;> simp [verifyFirstEndings, verifyPhases, htl]
  · obtain ⟨rfl, -⟩ := (verify_eq_true_iff _ _ _ _).1 hver
    rcases h with h | ⟨e, rfl | rfl, h⟩ <;> rw [h] <;> decide

theorem bodyOpenPlaintext_ending : (bodyOpenPlaintext o t tl ct).ending ∈ plaintextEndings (tl == 8#32) := by
  cases hval : validate o.ckl o.mkl o.ivl with
  | some e =>
    simp only [bodyOpenPlaintext, hval, ending_raise]
    rcases validate_error hval with rfl | rfl <;> simp [plaintextEndings]
  | none =>
    by_cases hlen : ct.length % 16 = 0
    · cases hpad : unpad (cbcDec o.cipherKey o.iv ct) with
      | none => rw [bodyOpenPlaintext_of_bad_padding hval hlen hpad]; simp [plaintextEndings]
      | some pt =>
        cases hver : verify o.macKey pt t tl with
        | false =>
          rw [bodyOpenPlaintext_of_mismatch hval hlen hpad hver]
          by_cases htl : tl = 8#32 <;> simp [plaintextEndings, verifyPhases, htl]
        | true =>
          rw [bodyOpenPlaintext_of_good hval hlen hpad hver]
          obtain ⟨rfl, -⟩ := (verify_eq_true_iff _ _ _ _).1 hver
          simp [plaintextEndings]
    · rw [bodyOpenPlaintext_of_partial_block hval hlen]; simp [plaintextEndings]

end

section
variable {i : Instr} {s t : State}

theorem bodyOf_ending (i : Instr) (s : State) : (bodyOf i s).ending ∈ endingsOf i (s.tagiLen == 8#32) := by
  cases i with
  | validate => exact bodyValidate_ending
  | pad => simp [bodyOf, bodyPad, endingsOf]
  | unpad => exact bodyUnpad_ending
  | encrypt => exact bodyEncrypt_ending
  | decrypt => exact bodyDecrypt_ending
  | mac => exact bodyMac_ending
  | verify => exact bodyVerify_ending
  | sealCt => exact bodySeal_ending (scope := .ciphertextOnly)
  | sealIvct => exact bodySeal_ending (scope := .ivThenCiphertext)
  | sealPt => exact bodySeal_ending (scope := .plaintextOnly)
  | openCt | openIvct => exact bodyOpenVerifyFirst_ending
  | openPt => exact bodyOpenPlaintext_ending
  | wipe => simp [bodyOf, bodyWipe, endingsOf]

/-- Every command but the two without a region has the ending of a failed address check. -/
theorem addressError_mem_endingsOf (ha : s.addressOk i = false) (tagOfLength8 : Bool) :
    (some .addressError, []) ∈ endingsOf i tagOfLength8 := by
  cases i with
  | validate | wipe => cases ha
  | openCt | openIvct => simp [endingsOf, verifyFirstEndings]
  | openPt => simp [endingsOf, plaintextEndings]
  | _ => simp [endingsOf]

theorem runOf_ending (i : Instr) (s : State) : (runOf i s).ending ∈ endingsOf i (s.tagiLen == 8#32) := by
  cases ha : s.addressOk i with
  | false => rw [runOf_of_addressOk_false ha]; exact addressError_mem_endingsOf ha _
  | true => rw [runOf_of_addressOk ha]; exact bodyOf_ending i s

/-! #### Verified before decrypted (R123 (2), 45_envelope.md R170) -/

/-- The mark DEC of a body that verifies first stands behind a tag that has verified. -/
theorem bodyOpenVerifyFirst_of_dec {scope : MacScope} {o : EnvelopeParams} {tag ct : List Byte} {tl : Word}
    (h : .dec ∈ (bodyOpenVerifyFirst scope o tag tl ct).phases) :
    verify o.macKey (macInput scope o.iv ct []) tag tl = true ∧
      (bodyOpenVerifyFirst scope o tag tl ct).phases = [.v, .mac, .cmp, .dec, .unpad] := by
  have hphases : ∀ {e phases}, (bodyOpenVerifyFirst scope o tag tl ct).ending = (e, phases) →
      (bodyOpenVerifyFirst scope o tag tl ct).phases = phases := fun he => congrArg Prod.snd he
  rcases bodyOpenVerifyFirst_ending_cases scope o tag tl ct with ⟨e, -, he⟩ | he | ⟨hver, he | ⟨e, -, he⟩⟩
  · rw [hphases he] at h; simp at h
  · rw [hphases he] at h
    by_cases htl : tl = 8#32 <;> simp [verifyPhases, htl] at h
  · rw [hphases he] at h; simp at h
  · exact ⟨hver, hphases he⟩

end

/-! #### The statements -/

/-- Settles O18: the ending of every body is in the table, and so is that of a failed address check; an illegal word
has no marks. -/
theorem phasesFollowTheTable : Obligations.PhasesFollowTheTable := by
  refine ⟨fun i s t hexec => ⟨_, runOf_ending i s, exec_ending hexec⟩, fun s hturn => ?_⟩
  exact ⟨_, step_of_illegalTurn hturn, rfl, fun ⟨_, _, _, hempty, _⟩ => hempty⟩

/-- Settles O19: behind the address check the marks are those of the body, where DEC stands behind a tag that has
verified. -/
theorem verifiedBeforeDecrypted : Obligations.VerifiedBeforeDecrypted := by
  intro scope s t hscope hempty hexec hdec
  have htrace := (exec_ending hexec).2
  rw [hempty, List.nil_append] at htrace
  rw [htrace] at hdec ⊢
  cases ha : s.addressOk (openOf scope) with
  | false => rw [runOf_of_addressOk_false ha] at hdec; cases hdec
  | true =>
    rw [runOf_of_addressOk ha, bodyOf_openOf hscope] at hdec ⊢
    obtain ⟨hver, hphases⟩ := bodyOpenVerifyFirst_of_dec hdec
    obtain ⟨htl, hmac⟩ := (verify_eq_true_iff _ _ _ _).1 hver
    exact ⟨htl, hmac, [.unpad], hphases⟩

end Sys2Proof.Machine

namespace Sys2Proof.Machine

/-! ### The errors of the commands (60_exceptions.md R241)

That a command ends with no other error is `bodyOf_error` behind the address check. That each listed error is possible
is shown at a state of its own: State.reset with the lengths, the source and the tag that the error asks for. -/

/-- Some state makes the command end with the error. -/
def ErrorPossible (i : Instr) (e : ErrorKind) : Prop :=
  ∃ s t, exec i s = .next t ∧ t.status.err = some e

/-- State.reset with all lengths legal, an empty source and a presented tag of length 0. -/
def legalState : State :=
  { State.reset with ckeyLen := 16#32, mkeyLen := 32#32, ivLen := 16#32 }

/-- Legal keys and no IV. -/
def noIvState : State :=
  { legalState with ivLen := 0#32 }

/-- A source of one byte, which is no whole block. -/
def oddState : State :=
  { legalState with srcLen := 1#32 }

/-- A source that lies past MEM. -/
def outsideState : State :=
  { State.reset with srcAddr := 4097#32 }

/-- The state with the tag that verifies under a verify-first scope (45_envelope.md R170). -/
def State.tagged (s : State) (scope : MacScope) : State :=
  { s with tagiLen := 8#32, tagi := fileOfBytes 8 (mac s.macKey (macInput scope s.ivBytes s.source [])) }

theorem State.tagged_verifies (s : State) (scope : MacScope) :
    verify (s.tagged scope).macKey (macInput scope (s.tagged scope).ivBytes (s.tagged scope).source [])
      (s.tagged scope).tagBytes (s.tagged scope).tagiLen = true :=
  (verify_eq_true_iff _ _ _ _).2 ⟨rfl, (fileOfBytes_toList (mac_length _ _)).symm⟩

section
variable {i : Instr} {s t : State} {e : ErrorKind}

theorem EndsWithError.possible {phases : List Phase} (h : EndsWithError i s e phases) : ErrorPossible i e := by
  obtain ⟨w, hw⟩ := h
  exact ⟨s, _, hw, rfl⟩

/-! #### Each listed error is possible -/

theorem addressError_possible (hi : usesSource i = true) : ErrorPossible i .addressError :=
  ⟨outsideState, _, exec_of_addressOk_false ((outsideState.addressOk_eq_false_iff i).2 (.inl ⟨hi, by decide⟩)), rfl⟩

theorem validate_errors_possible : ∀ e ∈ errorsOf .validate, ErrorPossible .validate e := by
  simp only [errorsOf, List.forall_mem_cons, List.not_mem_nil, false_imp_iff, implies_true, and_true]
  exact ⟨(validate_endsWithError (validate_of_not_keysOk (s := State.reset) (by decide))).possible,
    (validate_endsWithError (validate_of_ivLen_ne (s := noIvState) (by decide) (by decide))).possible⟩

theorem unpad_errors_possible : ∀ e ∈ errorsOf .unpad, ErrorPossible .unpad e := by
  simp only [errorsOf, List.forall_mem_cons, List.not_mem_nil, false_imp_iff, implies_true, and_true]
  exact ⟨(unpad_endsWithError (s := State.reset) rfl rfl).possible, addressError_possible rfl⟩

theorem cbc_errors_possible (hi : IsCbcCommand i) : ∀ e ∈ errorsOf i, ErrorPossible i e := by
  have hlisted : errorsOf i = [.invalidKeyLength, .invalidIVLength, .invalidInputLength, .addressError] := by
    rcases hi with rfl | rfl <;> rfl
  have hsource : usesSource i = true := by rcases hi with rfl | rfl <;> rfl
  obtain ⟨-, hkey, -, -⟩ := cbc_errors hi State.reset
  obtain ⟨-, -, hiv, -⟩ := cbc_errors hi noIvState
  obtain ⟨-, -, -, hblocks⟩ := cbc_errors hi oddState
  simp only [hlisted, List.forall_mem_cons, List.not_mem_nil, false_imp_iff, implies_true, and_true]
  exact ⟨(hkey (by decide) (by decide) (by decide)).possible,
    (hiv (by decide) (by decide) (by decide) (by decide)).possible,
    (hblocks (by decide) (by decide) (by decide) (by decide) (by decide)).possible, addressError_possible hsource⟩

theorem mac_errors_possible (hi : IsMacCommand i) : ∀ e ∈ errorsOf i, ErrorPossible i e := by
  have hlisted : errorsOf i = [.invalidKeyLength, .addressError] := by rcases hi with rfl | rfl <;> rfl
  have hsource : usesSource i = true := by rcases hi with rfl | rfl <;> rfl
  simp only [hlisted, List.forall_mem_cons, List.not_mem_nil, false_imp_iff, implies_true, and_true]
  exact ⟨((mac_errors hi State.reset).2 (by decide) (by decide)).possible, addressError_possible hsource⟩

/-- The errors all six envelope commands share; an output of 16 bytes or none has room at address 0. -/
theorem envelope_errors_possible (hi : IsEnvelopeCommand i) {n : Nat} (hn : outMax i 0 = some n) (hroom : n ≤ 4096) :
    ErrorPossible i .invalidKeyLength ∧ ErrorPossible i .invalidIVLength ∧ ErrorPossible i .addressError := by
  have hfits : ∀ s : State, s.dstAddr = 0#32 → s.memSize = 4096#32 → s.RoomFor n := fun s haddr hsize => by
    rw [State.RoomFor, haddr, hsize]
    simpa using hroom
  obtain ⟨-, hkey, -⟩ := envelope_errors (s := State.reset) hi hn
  obtain ⟨-, -, hiv⟩ := envelope_errors (s := noIvState) hi hn
  exact ⟨(hkey (by decide) (hfits _ rfl rfl) (by decide)).possible,
    (hiv (by decide) (hfits _ rfl rfl) (by decide) (by decide)).possible,
    addressError_possible (usesSource_envelope hi)⟩

theorem seal_errors_possible (scope : MacScope) : ∀ e ∈ errorsOf (sealOf scope), ErrorPossible (sealOf scope) e := by
  have hlisted : errorsOf (sealOf scope) = [.invalidKeyLength, .invalidIVLength, .addressError] := by
    cases scope <;> rfl
  simp only [hlisted, List.forall_mem_cons, List.not_mem_nil, false_imp_iff, implies_true, and_true]
  exact envelope_errors_possible ⟨scope, .inl rfl⟩ (outMax_sealOf scope 0) (by decide)

/-- Behind the tag that verifies, a verify-first scope looks at the length. -/
theorem tagged_endsWithError {scope : MacScope} (hscope : scope ≠ .plaintextOnly) (hsrc : s.SourceInMem)
    (hroom : s.RoomFor s.srcLen.toNat) (hlen : s.LengthsOk) (hblocks : s.source.length % 16 ≠ 0) :
    EndsWithError (openOf scope) (s.tagged scope) .invalidInputLength [.v, .mac, .cmp] :=
  openVerifyFirst_endsWithError (s := s.tagged scope) hscope hsrc hroom (bodyOpenVerifyFirst_of_partial_block
    (validate_of_lengthsOk (s := s.tagged scope) hlen) (s.tagged_verifies scope) hblocks)

/-- A partial block is found behind the tag under the verify-first scopes, and before it under PlaintextOnly. -/
theorem open_invalidInputLength_possible (scope : MacScope) : ErrorPossible (openOf scope) .invalidInputLength := by
  have hsrc : oddState.SourceInMem := by decide
  have hroom : oddState.RoomFor oddState.srcLen.toNat := by decide
  have hlen : oddState.LengthsOk := by decide
  have hblocks : oddState.source.length % 16 ≠ 0 := by decide
  by_cases hscope : scope = .plaintextOnly
  · subst hscope
    exact (openPlaintext_endsWithError hsrc hroom
      (bodyOpenPlaintext_of_partial_block (validate_of_lengthsOk hlen) hblocks)).possible
  · exact (tagged_endsWithError hscope hsrc hroom hlen hblocks).possible

/-- A tag of length 0 does not verify; an empty source has no padding. -/
theorem open_authenticationFailure_possible (scope : MacScope) :
    ErrorPossible (openOf scope) .authenticationFailure := by
  by_cases hscope : scope = .plaintextOnly
  · subst hscope
    exact (openPlaintext_endsWithError (s := legalState) (by decide) (by decide)
      (bodyOpenPlaintext_of_bad_padding (validate_of_lengthsOk (by decide)) rfl rfl)).possible
  · exact (openVerifyFirst_endsWithError_of_mismatch (s := legalState) hscope (by decide) (by decide) (by decide)
      (verify_of_length_ne _ _ _ (by decide))).possible

theorem open_errors_possible (scope : MacScope) : ∀ e ∈ errorsOf (openOf scope), ErrorPossible (openOf scope) e := by
  have hlisted : errorsOf (openOf scope) =
      [.invalidKeyLength, .invalidIVLength, .invalidInputLength, .authenticationFailure, .addressError] := by
    cases scope <;> rfl
  obtain ⟨hkey, hiv, haddress⟩ :=
    envelope_errors_possible ⟨scope, .inr rfl⟩ (outMax_openOf scope 0) (Nat.zero_le _)
  simp only [hlisted, List.forall_mem_cons, List.not_mem_nil, false_imp_iff, implies_true, and_true]
  exact ⟨hkey, hiv, open_invalidInputLength_possible scope, open_authenticationFailure_possible scope, haddress⟩

theorem errorPossible_of_mem (i : Instr) : ∀ e ∈ errorsOf i, ErrorPossible i e := by
  cases i with
  | validate => exact validate_errors_possible
  | pad => exact fun e he => List.mem_singleton.1 he ▸ addressError_possible rfl
  | unpad => exact unpad_errors_possible
  | encrypt => exact cbc_errors_possible (.inl rfl)
  | decrypt => exact cbc_errors_possible (.inr rfl)
  | mac => exact mac_errors_possible (.inl rfl)
  | verify => exact mac_errors_possible (.inr rfl)
  | sealCt => exact seal_errors_possible .ciphertextOnly
  | sealIvct => exact seal_errors_possible .ivThenCiphertext
  | sealPt => exact seal_errors_possible .plaintextOnly
  | openCt => exact open_errors_possible .ciphertextOnly
  | openIvct => exact open_errors_possible .ivThenCiphertext
  | openPt => exact open_errors_possible .plaintextOnly
  | wipe => exact fun e he => absurd he List.not_mem_nil

/-! #### No other error is possible -/

/-- AddressError is listed for every command whose address check can fail. -/
theorem addressError_mem_errorsOf (ha : s.addressOk i = false) : .addressError ∈ errorsOf i := by
  cases i with
  | validate | wipe => cases ha
  | _ => decide

theorem mem_errorsOf_of_exec (h : exec i s = .next t) (herr : t.status.err = some e) : e ∈ errorsOf i := by
  cases exec_ends h with
  | address ha => cases herr; exact addressError_mem_errorsOf ha
  | error e' _ hr => cases herr; exact (mem_bodyErrors_iff.1 (bodyOf_error hr)).1
  | wiped => cases herr
  | report => cases herr
  | output => cases herr

end

/-- Settles O16: each listed error has a state that shows it; an error comes from the address check or the body, and
both raise listed ones only. -/
theorem possibleErrorsOfEachCommand : Obligations.PossibleErrorsOfEachCommand :=
  ⟨fun i e => ⟨errorPossible_of_mem i e, fun ⟨_, _, hexec, herr⟩ => mem_errorsOf_of_exec hexec herr⟩,
    fun _ hturn => ⟨_, step_of_illegalTurn hturn, rfl⟩⟩

end Sys2Proof.Machine
